-- ==== Sys2Proof/Word.lean ====
section
/-! DEFINITION. The widths of the values the CORE handles (00_scope.md R11: every value is unsigned). -/

namespace Sys2Proof

/-- A byte: `u8`. -/
abbrev Byte := BitVec 8

/-- A 32-bit command argument or extended response read as one value: `u32`. -/
abbrev Word := BitVec 32

/-- A command index, 0 to 63 (30_encoding.md R70, R76). -/
abbrev Index := BitVec 6

/-- A CRC-7/MMC value (10_state.md R23). -/
abbrev Crc := BitVec 7

end Sys2Proof
end

