-- ==== Sys2Proof/Machine/Crc7.lean ====
section
/-! DEFINITION. The CRC-7/MMC generator, bit by bit as 40_crc7.md R101 writes it. -/

namespace Sys2Proof.Machine

/-- The low seven bits of the generator polynomial x^7 + x^3 + 1 (R100). -/
def crcPoly : Crc := 0b0001001

/-- One turn of the inner loop of R101: the feedback bit goes into taps 0 and 3. -/
def crcBit (c : Crc) (b : Bool) : Crc :=
  if c.getLsbD 6 ^^ b then (c <<< 1) ^^^ crcPoly else c <<< 1

/-- The bits of a byte, most significant first (R100). -/
def bitsOf (m : Byte) : List Bool :=
  [m.getLsbD 7, m.getLsbD 6, m.getLsbD 5, m.getLsbD 4, m.getLsbD 3, m.getLsbD 2, m.getLsbD 1, m.getLsbD 0]

/-- The loop of R101 over a sequence of bits, from a register value. -/
def crcBits (c : Crc) (bs : List Bool) : Crc :=
  bs.foldl crcBit c

/-- One turn of the outer loop of R101: the eight bits of one byte. -/
def crcByte (c : Crc) (m : Byte) : Crc :=
  crcBits c (bitsOf m)

/-- The loop of R101 over bytes in index order, from a register value. -/
def crcFrom (c : Crc) (ms : List Byte) : Crc :=
  ms.foldl crcByte c

/-- `crc7(m)` of R101: the register starts at 0, nothing is reflected or complemented at the end (R100, R102). -/
def crc7 (ms : List Byte) : Crc :=
  crcFrom 0 ms

end Sys2Proof.Machine
end

