-- ==== Sys2Proof/Machine/Flags.lean ====
section
/-! DEFINITION. The status byte (R1): its flags (10_state.md R26), the predicates computed from it (R27), and the error
it reports (42_response_parser.md R120, R121). -/

namespace Sys2Proof.Machine

/-- 0xFF, "a bus-idle/no-response sentinel, never a valid status value" (30_encoding.md R85). -/
def sentinel : Byte := 0xFF

/-- What a status error flag says was wrong: the `kind` of `CommandRejected` (60_exceptions.md R190). -/
inductive RejectKind where
  | illegalCommand
  | crcError
  | eraseSequenceError
  | addressError
  | parameterError
deriving DecidableEq, Repr

/-- bit 0: card in idle state -/
def idleFlag (s : Byte) : Bool := s.getLsbD 0

/-- bit 1: erase reset; read by no rule (R27) -/
def eraseResetFlag (s : Byte) : Bool := s.getLsbD 1

/-- bit 2: illegal command, priority 1 -/
def illegalCmdFlag (s : Byte) : Bool := s.getLsbD 2

/-- bit 3: command CRC error, priority 2 -/
def crcErrFlag (s : Byte) : Bool := s.getLsbD 3

/-- bit 4: erase sequence error, priority 3 -/
def eraseSeqErrFlag (s : Byte) : Bool := s.getLsbD 4

/-- bit 5: address error, priority 4 -/
def addrErrFlag (s : Byte) : Bool := s.getLsbD 5

/-- bit 6: parameter error, priority 5 -/
def paramErrFlag (s : Byte) : Bool := s.getLsbD 6

/-- `error_bits = status[6:2]` (R27). -/
def errorBits (s : Byte) : BitVec 5 := s.extractLsb' 2 5

/-- `is_truncated = status[2] | status[3]` (R27, R122). -/
def isTruncated (s : Byte) : Bool := illegalCmdFlag s || crcErrFlag s

/-- The test of `check_error` (R120): the first set flag in the fixed order; none when all five are clear. -/
def statusError (s : Byte) : Option RejectKind :=
  if illegalCmdFlag s then some .illegalCommand
  else if crcErrFlag s then some .crcError
  else if eraseSeqErrFlag s then some .eraseSequenceError
  else if addrErrFlag s then some .addressError
  else if paramErrFlag s then some .parameterError
  else none

end Sys2Proof.Machine
end

