-- ==== Sys2Proof/Config.lean ====
section
/-! DEFINITION. The parameters of 00_scope.md R6 to R9: what an implementation fixes, and what no operation writes
(10_state.md R43). The machine reads them from the field `params` of State, so that a statement about every state is a
statement about every value of every parameter (log entry 1). -/

namespace Sys2Proof

/-- `CS_SCOPE` (R9): where INIT opens its chip-select-low scopes. -/
inductive CsScope where
  | wholeHandshake
  | perCommand
deriving DecidableEq, Repr

/-- The parameters of R6 (bounds), R7 (delays in microseconds), R8 (protocol constants) and R9 (chip-select scope), and the two
arguments 30_encoding.md R80 makes parameters beside those of R8. -/
structure Params where
  /-- `N_READY`, maximum exchanges in WAIT_READY. -/
  nReady : Nat
  /-- `N_RESP`, maximum exchanges polling for the status byte. -/
  nResp : Nat
  /-- `N_VP`, maximum SEND_IF_COND attempts. -/
  nVp : Nat
  /-- `N_OC`, maximum APP_CMD plus SD_SEND_OP_COND iterations. -/
  nOc : Nat
  /-- `N_DUMMY`, dummy 0xFF bytes written at PowerUp. -/
  nDummy : Nat
  /-- `T_POWERUP_US`. -/
  tPowerupUs : Nat
  /-- `T_OC_US`. -/
  tOcUs : Nat
  /-- `T_READY_US`. -/
  tReadyUs : Nat
  /-- `IDX_GO_IDLE`. -/
  idxGoIdle : Index
  /-- `IDX_SEND_IF_COND`. -/
  idxSendIfCond : Index
  /-- `IDX_CRC_ON_OFF`. -/
  idxCrcOnOff : Index
  /-- `IDX_APP_CMD`. -/
  idxAppCmd : Index
  /-- `IDX_SD_SEND_OP_COND`. -/
  idxSdSendOpCond : Index
  /-- `IDX_READ_OCR`. -/
  idxReadOcr : Index
  /-- `VHS_CODE`. -/
  vhsCode : BitVec 4
  /-- `CHECK_PATTERN`. -/
  checkPattern : Byte
  /-- `HCS_BIT`, a bit number of the 32-bit argument. -/
  hcsBit : Fin 32
  /-- `CRC_ON_ARG`. -/
  crcOnArg : Word
  /-- The argument of APP_CMD, a parameter by 30_encoding.md R80 (93_implementation_defined.md G7). -/
  appCmdArg : Word
  /-- The argument of READ_OCR, a parameter by 30_encoding.md R80 (93_implementation_defined.md G7). -/
  readOcrArg : Word
  /-- `PLACEHOLDER`. -/
  placeholder : Byte
  /-- `CS_SCOPE`. -/
  csScope : CsScope
deriving DecidableEq, Repr

/-- `T_READY_US` has no default: R7 leaves it OPEN (D18). A constant with no body: nothing can be proved of its value
(log entry 15). -/
opaque Config.tReadyUs : Nat

/-- The defaults of R6 to R9. The values R8 marks "from general knowledge" are the spec's defaults (log entry 16). -/
def Params.default : Params where
  nReady := 32
  nResp := 8
  nVp := 5
  nOc := 3200
  nDummy := 10
  tPowerupUs := 1000
  tOcUs := 50
  tReadyUs := Config.tReadyUs
  idxGoIdle := 0
  idxSendIfCond := 8
  idxCrcOnOff := 59
  idxAppCmd := 55
  idxSdSendOpCond := 41
  idxReadOcr := 58
  vhsCode := 0x1
  checkPattern := 0xAA
  hcsBit := 30
  crcOnArg := 0x00000001
  appCmdArg := 0x00000000
  readOcrArg := 0x00000000
  placeholder := 0xFF
  csScope := .wholeHandshake

/-- The legal values: every bound is at least 1, `N_DUMMY` at least 10 (R6, D17), `T_POWERUP_US` at least 1000 (R7). -/
def Params.wf (p : Params) : Bool :=
  decide (1 ≤ p.nReady) && decide (1 ≤ p.nResp) && decide (1 ≤ p.nVp) && decide (1 ≤ p.nOc)
    && decide (10 ≤ p.nDummy) && decide (1000 ≤ p.tPowerupUs)

end Sys2Proof
end

