-- ==== Sys2Proof/Syntax.lean ====
section
/-! DEFINITION. The syntax of everything the CORE is given to run: the eleven requests (30_encoding.md R70), the seven
command frames (R73, R80) and the three response forms (R77 to R79); one constructor of `Instr` per row of
spec/opcode_table.json. The encoded forms are `Packet`. -/

namespace Sys2Proof

/-- A response shape (30_encoding.md R71); code 3 names none (R86). -/
inductive Shape where
  | r1
  | r3
  | r7
deriving DecidableEq, Repr

/-- Four bytes in the order received: an OCR echo or an interface-condition echo (30_encoding.md R78, R79). -/
structure Quad where
  e0 : Byte
  e1 : Byte
  e2 : Byte
  e3 : Byte
deriving DecidableEq, Repr

/-- The six bytes of a command frame (30_encoding.md R73). -/
structure Frame where
  b0 : Byte
  b1 : Byte
  b2 : Byte
  b3 : Byte
  b4 : Byte
  b5 : Byte
deriving DecidableEq, Repr

/-- A request as an element of `req_body`: the fields of 30_encoding.md R70 but for a body of its own, which no element
that R72 lets through has (log entry 10). -/
structure SubRequest where
  /-- `req_op` -/
  op : BitVec 4
  /-- `req_index` -/
  index : Index
  /-- `req_arg` -/
  arg : Word
  /-- `req_shape` -/
  shape : BitVec 2
  /-- `req_bytes` -/
  bytes : List Byte
  /-- `req_len` -/
  len : Nat
  /-- `req_pattern` -/
  pattern : Byte
  /-- `req_speedup` -/
  speedup : Bool
deriving DecidableEq, Repr

/-- A request record (30_encoding.md R70). -/
structure Request extends SubRequest where
  /-- `req_body` -/
  body : List SubRequest
deriving DecidableEq, Repr

/-- An element of the body of WITH_CS_LOW (43_bus_transaction.md R149); the shape is the 2-bit code of R71. -/
inductive BodyOp where
  | waitReady
  | execCmd (index : Index) (arg : Word) (shape : BitVec 2)
deriving DecidableEq, Repr

/-- One constructor per row of spec/opcode_table.json. -/
inductive Instr where
  /-- `CRC7` (40_crc7.md R103) -/
  | crc7 (bytes : List Byte)
  /-- `ENCODE` (41_frame_codec.md R110) -/
  | encode (index : Index) (arg : Word) (len : Nat)
  /-- `DECODE_CMD` (41_frame_codec.md R112) -/
  | decodeCmd (bytes : List Byte)
  /-- `STATUS_CHECK_ERROR` (42_response_parser.md R120) -/
  | statusCheckError (bytes : List Byte)
  /-- `STATUS_IS_TRUNCATED` (42_response_parser.md R122) -/
  | statusIsTruncated (bytes : List Byte)
  /-- `CHECK_IF_ECHO` (42_response_parser.md R124) -/
  | checkIfEcho (bytes : List Byte) (pattern : Byte)
  /-- `CAPACITY_FROM_OCR` (42_response_parser.md R126) -/
  | capacityFromOcr (bytes : List Byte)
  /-- `WAIT_READY` (43_bus_transaction.md R140) -/
  | waitReady
  /-- `EXEC_CMD` (43_bus_transaction.md R142) -/
  | execCmd (index : Index) (arg : Word) (shape : BitVec 2)
  /-- `WITH_CS_LOW` (43_bus_transaction.md R149) -/
  | withCsLow (body : List BodyOp)
  /-- `INIT` (44_init_fsm.md R160) -/
  | init (speedup : Bool)
  /-- `CMD_n (generic frame)` (30_encoding.md R73): a frame that is none of the six named ones -/
  | cmdN (index : Index) (arg : Word)
  /-- `GO_IDLE_STATE (CMD0)` (30_encoding.md R80) -/
  | goIdleState
  /-- `SEND_IF_COND (CMD8)` (30_encoding.md R81): voltage code and check pattern -/
  | sendIfCond (vhs : BitVec 4) (pattern : Byte)
  /-- `CRC_ON_OFF (CMD59)` (30_encoding.md R83) -/
  | crcOnOff
  /-- `APP_CMD (CMD55)` (30_encoding.md R83) -/
  | appCmd
  /-- `SD_SEND_OP_COND (ACMD41)` (30_encoding.md R82): the host-capacity-support bit -/
  | sdSendOpCond (hcs : Bool)
  /-- `READ_OCR (CMD58)` (30_encoding.md R80) -/
  | readOcr
  /-- `RESP_R1 (status byte)` (30_encoding.md R77): a response that is one status byte -/
  | respR1 (status : Byte)
  /-- `RESP_R3 (status + OCR echo)` (30_encoding.md R79) -/
  | respR3 (status : Byte) (ocr : Word)
  /-- `RESP_R7 (status + interface-condition echo)` (30_encoding.md R78) -/
  | respR7 (status : Byte) (echo : Word)
deriving DecidableEq, Repr

/-- The formats of the opcode table. -/
inductive Format where
  | request
  | commandFrame
  | response
deriving DecidableEq, Repr

/-- The format of each row of the opcode table. -/
def Instr.format : Instr → Format
  | .crc7 _ | .encode _ _ _ | .decodeCmd _ | .statusCheckError _ | .statusIsTruncated _ | .checkIfEcho _ _
  | .capacityFromOcr _ | .waitReady | .execCmd _ _ _ | .withCsLow _ | .init _ => .request
  | .cmdN _ _ | .goIdleState | .sendIfCond _ _ | .crcOnOff | .appCmd | .sdSendOpCond _ | .readOcr => .commandFrame
  | .respR1 _ | .respR3 _ _ | .respR7 _ _ => .response

/-- An encoded instruction in one of the three formats of 30_encoding.md. A response's format takes the shape the command
was issued with: "the response shape is always statically known from the command" (R128). -/
inductive Packet where
  | request (r : Request)
  | command (bytes : List Byte)
  | response (shape : Shape) (bytes : List Byte)
deriving DecidableEq, Repr

/-- Why a packet stands for no instruction. The first four are the causes of a refusal in 30_encoding.md R72. -/
inductive Reject where
  /-- `req_op` 0x0 or 0xC to 0xF (R87) -/
  | reservedOp
  /-- `req_shape` 3 where the operation reads it (R86) -/
  | reservedShape
  /-- `req_bytes` not of the exact length of the operation's row (R72) -/
  | wrongLength
  /-- `req_body` holds an element that is neither WAIT_READY nor EXEC_CMD (R72, R149) -/
  | badBody
  /-- a command frame that is not six bytes (R73) -/
  | frameLength
  /-- `frame[0][7:6]` ≠ 0b01 (R84) -/
  | badPrefix
  /-- `frame[5][0]` ≠ 1 (R84) -/
  | badStop
  /-- `frame[5][7:1]` ≠ crc7(frame[0..4]) (R84) -/
  | badCrc
  /-- the byte 0xFF is no status (R85) -/
  | sentinel
  /-- a response of another length than its shape and status give it (R89) -/
  | responseLength
deriving DecidableEq, Repr

end Sys2Proof
end

