-- ==== Sys2Proof/Machine/Operands.lean ====
section
/-! DEFINITION. The operand forms: byte order (20_memory.md R52 to R54), the frame's assembly (30_encoding.md R73 to R75),
the shape codes (R71), the arguments of the command table (R80 to R83) and the two echo tests' field reads. -/

namespace Sys2Proof

open Machine

/-- `bytes_be32` (00_scope.md R11): the most significant byte first. -/
def bytesBe32 (x : Word) : Quad where
  e0 := x.extractLsb' 24 8
  e1 := x.extractLsb' 16 8
  e2 := x.extractLsb' 8 8
  e3 := x.extractLsb' 0 8

/-- `be32` (00_scope.md R11). -/
def be32 (q : Quad) : Word := q.e0 ++ q.e1 ++ q.e2 ++ q.e3

/-- The four bytes in index order. -/
def Quad.toList (q : Quad) : List Byte := [q.e0, q.e1, q.e2, q.e3]

/-- Byte `k` replaced. -/
def Quad.set (q : Quad) (k : Fin 4) (b : Byte) : Quad :=
  match k with
  | 0 => { q with e0 := b }
  | 1 => { q with e1 := b }
  | 2 => { q with e2 := b }
  | 3 => { q with e3 := b }

/-- The six bytes in the order they are sent (20_memory.md R53). -/
def Frame.toList (f : Frame) : List Byte := [f.b0, f.b1, f.b2, f.b3, f.b4, f.b5]

/-- Bytes 0 to 4, what "the checksum covers exactly" (41_frame_codec.md R111). -/
def Frame.covered (f : Frame) : List Byte := [f.b0, f.b1, f.b2, f.b3, f.b4]

/-- `frame[0] = 0b01 ++ index[5:0]` (30_encoding.md R74). -/
def frameByte0 (index : Index) : Byte := 0b01#2 ++ index

/-- `frame[5] = crc7(frame[0..4]) ++ 0b1` (30_encoding.md R75). -/
def frameByte5 (c : Crc) : Byte := c ++ 1#1

/-- The checksum of the frame of an index and an argument: CRC7 over its bytes 0 to 4. -/
def frameCrc (index : Index) (arg : Word) : Crc :=
  crc7 (frameByte0 index :: (bytesBe32 arg).toList)

/-- The frame ENCODE builds (41_frame_codec.md R110). -/
def frameOf (index : Index) (arg : Word) : Frame where
  b0 := frameByte0 index
  b1 := (bytesBe32 arg).e0
  b2 := (bytesBe32 arg).e1
  b3 := (bytesBe32 arg).e2
  b4 := (bytesBe32 arg).e3
  b5 := frameByte5 (frameCrc index arg)

/-- The index field of a frame, `b[0][5:0]` (41_frame_codec.md R112). -/
def Frame.index (f : Frame) : Index := f.b0.extractLsb' 0 6

/-- The argument field of a frame, `be32(b[1..4])` (41_frame_codec.md R112). -/
def Frame.arg (f : Frame) : Word := be32 ⟨f.b1, f.b2, f.b3, f.b4⟩

/-- `prefix_ok` of 41_frame_codec.md R112. -/
def Frame.prefixOk (f : Frame) : Bool := f.b0.extractLsb' 6 2 == 0b01#2

/-- `stop_ok` of 41_frame_codec.md R112. -/
def Frame.stopOk (f : Frame) : Bool := f.b5.getLsbD 0

/-- `crc_ok` of 41_frame_codec.md R112. -/
def Frame.crcOk (f : Frame) : Bool := f.b5.extractLsb' 1 7 == crc7 f.covered

/-- The code of a shape (30_encoding.md R71). -/
def Shape.code : Shape → BitVec 2
  | .r1 => 0
  | .r3 => 1
  | .r7 => 2

/-- The shape of a code; 3 names none (30_encoding.md R71, R86). -/
def shapeOfCode (c : BitVec 2) : Option Shape :=
  if c = 0 then some .r1 else if c = 1 then some .r3 else if c = 2 then some .r7 else none

/-- Extra bytes after an untruncated status byte (30_encoding.md R71). -/
def Shape.extraBytes : Shape → Nat
  | .r1 => 0
  | .r3 => 4
  | .r7 => 4

/-- Whether a response has the four extra bytes: shape R3 or R7 and a status that is not truncated
(43_bus_transaction.md R144). -/
def readsExtra (sh : Shape) (status : Byte) : Bool :=
  sh.extraBytes != 0 && !isTruncated status

/-- The argument of SEND_IF_COND: `zext_32(vhs ++ pattern)` (30_encoding.md R81). -/
def ifCondArg (vhs : BitVec 4) (pattern : Byte) : Word := (vhs ++ pattern).setWidth 32

/-- The argument of SD_SEND_OP_COND: the host-capacity-support bit and nothing else (30_encoding.md R82). -/
def opCondArg (p : Params) (hcs : Bool) : Word :=
  if hcs then 1#32 <<< p.hcsBit.val else 0

/-- The voltage-support code of an interface-condition echo, `extra[2][3:0]` (30_encoding.md R78). -/
def Quad.voltage (q : Quad) : BitVec 4 := q.e2.extractLsb' 0 4

/-- The echoed check pattern, `extra[3]` (30_encoding.md R78). -/
def Quad.pattern (q : Quad) : Byte := q.e3

/-- The capacity-status bit of an OCR echo, `extra[0][6]` (30_encoding.md R79). -/
def Quad.ccs (q : Quad) : Bool := q.e0.getLsbD 6

/-- The index and argument of a command frame row (30_encoding.md R80 to R83); none for a row of another format. -/
def commandFields (p : Params) : Instr → Option (Index × Word)
  | .cmdN i a => some (i, a)
  | .goIdleState => some (p.idxGoIdle, 0)
  | .sendIfCond v q => some (p.idxSendIfCond, ifCondArg v q)
  | .crcOnOff => some (p.idxCrcOnOff, p.crcOnArg)
  | .appCmd => some (p.idxAppCmd, p.appCmdArg)
  | .sdSendOpCond h => some (p.idxSdSendOpCond, opCondArg p h)
  | .readOcr => some (p.idxReadOcr, p.readOcrArg)
  | _ => none

end Sys2Proof
end

