-- ==== Sys2Proof/WellFormed.lean ====
section
/-! DEFINITION. Which instructions are well formed: the operand conditions of 30_encoding.md R72 for the requests, "the
generic row stands for no named frame" for `CMD_n`, and the forms of R77 and R89 for the responses. -/

namespace Sys2Proof

open Machine

/-- The element's shape code names a shape (30_encoding.md R86). -/
def BodyOp.wf : BodyOp → Bool
  | .waitReady => true
  | .execCmd _ _ shape => (shapeOfCode shape).isSome

/-- An index and an argument that one of the six named frames of 30_encoding.md R80 has. -/
def isNamedCommand (p : Params) (index : Index) (arg : Word) : Bool :=
  (index == p.idxGoIdle && arg == 0)
    || (index == p.idxSendIfCond && arg.extractLsb' 12 20 == 0)
    || (index == p.idxCrcOnOff && arg == p.crcOnArg)
    || (index == p.idxAppCmd && arg == p.appCmdArg)
    || (index == p.idxSdSendOpCond && (arg == opCondArg p false || arg == opCondArg p true))
    || (index == p.idxReadOcr && arg == p.readOcrArg)

/-- The operand conditions of each row. -/
def Instr.wf (p : Params) : Instr → Bool
  | .crc7 _ => true
  | .encode _ _ _ => true
  | .decodeCmd bytes => bytes.length == 6
  | .statusCheckError bytes => bytes.length == 1
  | .statusIsTruncated bytes => bytes.length == 1
  | .checkIfEcho bytes _ => bytes.length == 4
  | .capacityFromOcr bytes => bytes.length == 4
  | .waitReady => true
  | .execCmd _ _ shape => (shapeOfCode shape).isSome
  | .withCsLow body => body.all BodyOp.wf
  | .init _ => true
  | .cmdN index arg => !isNamedCommand p index arg
  | .goIdleState => true
  | .sendIfCond _ _ => true
  | .crcOnOff => true
  | .appCmd => true
  | .sdSendOpCond _ => true
  | .readOcr => true
  | .respR1 status => status != sentinel
  | .respR3 status _ => status != sentinel && !isTruncated status
  | .respR7 status _ => status != sentinel && !isTruncated status

/-- The six command indices are pairwise different, as the defaults of 00_scope.md R8 are. -/
def Params.indicesDistinct (p : Params) : Bool :=
  decide ([p.idxGoIdle, p.idxSendIfCond, p.idxCrcOnOff, p.idxAppCmd, p.idxSdSendOpCond, p.idxReadOcr].Nodup)

end Sys2Proof
end

