-- ==== Sys2Proof/Decode.lean ====
section
/-! DEFINITION. The decoder of the three formats of 30_encoding.md, total and rejecting by name, and after it the encoder.
The named command frames come before the generic row, as the more particular encoding of the opcode table (log entry 27). -/

namespace Sys2Proof

open Machine

/-! ## Requests (30_encoding.md R70, R72, R86, R87) -/

/-- An element of `req_body`: WAIT_READY or EXEC_CMD with a shape (R72, R149); any other is a reason to refuse. -/
def decodeBodyOp (r : SubRequest) : Except Reject BodyOp :=
  if r.op = 0x8 then .ok .waitReady
  else if r.op = 0x9 then
    if (shapeOfCode r.shape).isSome then .ok (.execCmd r.index r.arg r.shape) else .error .reservedShape
  else .error .badBody

/-- The elements of `req_body` in order; one bad element refuses the request. -/
def decodeBody : List SubRequest → Except Reject (List BodyOp)
  | [] => .ok []
  | r :: rs =>
    match decodeBodyOp r with
    | .error e => .error e
    | .ok b =>
      match decodeBody rs with
      | .error e => .error e
      | .ok bs => .ok (b :: bs)

/-- `req_bytes` where the operation's row asks for exactly `n` of them (R70, R72). -/
def withLength (n : Nat) (bytes : List Byte) (i : Instr) : Except Reject Instr :=
  if bytes.length = n then .ok i else .error .wrongLength

/-- The operation a request selects, with the operands it reads (R70); fields it does not read are not looked at. -/
def decodeRequest (r : Request) : Except Reject Instr :=
  if r.op = 0x1 then .ok (.crc7 r.bytes)
  else if r.op = 0x2 then .ok (.encode r.index r.arg r.len)
  else if r.op = 0x3 then withLength 6 r.bytes (.decodeCmd r.bytes)
  else if r.op = 0x4 then withLength 1 r.bytes (.statusCheckError r.bytes)
  else if r.op = 0x5 then withLength 1 r.bytes (.statusIsTruncated r.bytes)
  else if r.op = 0x6 then withLength 4 r.bytes (.checkIfEcho r.bytes r.pattern)
  else if r.op = 0x7 then withLength 4 r.bytes (.capacityFromOcr r.bytes)
  else if r.op = 0x8 then .ok .waitReady
  else if r.op = 0x9 then
    if (shapeOfCode r.shape).isSome then .ok (.execCmd r.index r.arg r.shape) else .error .reservedShape
  else if r.op = 0xA then
    match decodeBody r.body with
    | .error e => .error e
    | .ok body => .ok (.withCsLow body)
  else if r.op = 0xB then .ok (.init r.speedup)
  else .error .reservedOp

/-! ## Command frames (R73 to R76, R80 to R84) -/

/-- The row of an index and an argument: a named frame where one has them, else the generic row. -/
def commandOf (p : Params) (index : Index) (arg : Word) : Instr :=
  if index = p.idxGoIdle ∧ arg = 0 then .goIdleState
  else if index = p.idxSendIfCond ∧ arg.extractLsb' 12 20 = 0 then
    .sendIfCond (arg.extractLsb' 8 4) (arg.extractLsb' 0 8)
  else if index = p.idxCrcOnOff ∧ arg = p.crcOnArg then .crcOnOff
  else if index = p.idxAppCmd ∧ arg = p.appCmdArg then .appCmd
  else if index = p.idxSdSendOpCond ∧ arg = opCondArg p false then .sdSendOpCond false
  else if index = p.idxSdSendOpCond ∧ arg = opCondArg p true then .sdSendOpCond true
  else if index = p.idxReadOcr ∧ arg = p.readOcrArg then .readOcr
  else .cmdN index arg

/-- Six bytes as a frame. -/
def frameOfBytes : List Byte → Option Frame
  | [b0, b1, b2, b3, b4, b5] => some ⟨b0, b1, b2, b3, b4, b5⟩
  | _ => none

/-- A command frame on the wire; a malformed one (R84) is rejected by the first check it fails. -/
def decodeFrame (p : Params) (bytes : List Byte) : Except Reject Instr :=
  match frameOfBytes bytes with
  | none => .error .frameLength
  | some f =>
    if !f.prefixOk then .error .badPrefix
    else if !f.stopOk then .error .badStop
    else if !f.crcOk then .error .badCrc
    else .ok (commandOf p f.index f.arg)

/-! ## Responses (R77 to R79, R85, R89) -/

/-- The row of a response whose bytes are all there: the status byte alone, or the status byte and an echo. A truncated
response of any shape is the status byte alone (R77, R89; log entry 17). -/
def decodeResponse (shape : Shape) : List Byte → Except Reject Instr
  | [] => .error .responseLength
  | [st] =>
    if st = sentinel then .error .sentinel
    else if readsExtra shape st then .error .responseLength
    else .ok (.respR1 st)
  | [st, b0, b1, b2, b3] =>
    if st = sentinel then .error .sentinel
    else if readsExtra shape st then
      match shape with
      | .r1 => .error .responseLength
      | .r3 => .ok (.respR3 st (be32 ⟨b0, b1, b2, b3⟩))
      | .r7 => .ok (.respR7 st (be32 ⟨b0, b1, b2, b3⟩))
    else .error .responseLength
  | _ => .error .responseLength

/-! ## All formats -/

/-- The instruction a packet stands for, or why it stands for none. -/
def decode (p : Params) : Packet → Except Reject Instr
  | .request r => decodeRequest r
  | .command bytes => decodeFrame p bytes
  | .response shape bytes => decodeResponse shape bytes

/-! ## The encoder -/

/-- A request with every operand field zero (R70). -/
def Request.ofOp (op : BitVec 4) : Request where
  op := op
  index := 0
  arg := 0
  shape := 0
  bytes := []
  len := 0
  pattern := 0
  speedup := false
  body := []

/-- A body element as a sub-request (R149). -/
def encodeBodyOp : BodyOp → SubRequest
  | .waitReady => (Request.ofOp 0x8).toSubRequest
  | .execCmd index arg shape => { (Request.ofOp 0x9).toSubRequest with index := index, arg := arg, shape := shape }

/-- The frame of an index and an argument on the wire (R73). -/
def commandPacket (index : Index) (arg : Word) : Packet :=
  .command (frameOf index arg).toList

/-- The encoding of an instruction: the request record, the frame or the response bytes of its row, written from
30_encoding.md R70, R73, R77 to R83. -/
def encode (p : Params) : Instr → Packet
  | .crc7 bytes => .request { Request.ofOp 0x1 with bytes := bytes }
  | .encode index arg len => .request { Request.ofOp 0x2 with index := index, arg := arg, len := len }
  | .decodeCmd bytes => .request { Request.ofOp 0x3 with bytes := bytes }
  | .statusCheckError bytes => .request { Request.ofOp 0x4 with bytes := bytes }
  | .statusIsTruncated bytes => .request { Request.ofOp 0x5 with bytes := bytes }
  | .checkIfEcho bytes pattern => .request { Request.ofOp 0x6 with bytes := bytes, pattern := pattern }
  | .capacityFromOcr bytes => .request { Request.ofOp 0x7 with bytes := bytes }
  | .waitReady => .request (Request.ofOp 0x8)
  | .execCmd index arg shape => .request { Request.ofOp 0x9 with index := index, arg := arg, shape := shape }
  | .withCsLow body => .request { Request.ofOp 0xA with body := body.map encodeBodyOp }
  | .init speedup => .request { Request.ofOp 0xB with speedup := speedup }
  | .cmdN index arg => commandPacket index arg
  | .goIdleState => commandPacket p.idxGoIdle 0
  | .sendIfCond vhs pattern => commandPacket p.idxSendIfCond (ifCondArg vhs pattern)
  | .crcOnOff => commandPacket p.idxCrcOnOff p.crcOnArg
  | .appCmd => commandPacket p.idxAppCmd p.appCmdArg
  | .sdSendOpCond hcs => commandPacket p.idxSdSendOpCond (opCondArg p hcs)
  | .readOcr => commandPacket p.idxReadOcr p.readOcrArg
  | .respR1 status => .response .r1 [status]
  | .respR3 status ocr => .response .r3 (status :: (bytesBe32 ocr).toList)
  | .respR7 status echo => .response .r7 (status :: (bytesBe32 echo).toList)

/-! ## A word of the opcode table as a packet -/

/-- How many bytes `req_bytes` must have: the exact lengths of R70; CRC7 takes any, here none. -/
def operandBytes (op : BitVec 4) : Nat :=
  if op = 0x3 then 6 else if op = 0x4 ∨ op = 0x5 then 1 else if op = 0x6 ∨ op = 0x7 then 4 else 0

/-- Byte number `k` of a word, bits `8k+7` to `8k`. -/
def byteOfWord (w k : Nat) : Byte := BitVec.ofNat 8 (w >>> (8 * k))

/-- The packet an opcode-table word stands for. A word of 8 bits whose low four bits are the code of a request row (its
mask is 0xF) is that request, every operand zero: byte operands of the row's exact length, a destination of six bytes, an
empty body. Another word of 8 bits has the one row left, RESP_R1. A word of 48 bits is a command frame, bits 47 to 40 its
first byte, and the row's `c` bits, where the word leaves them zero, are filled in with the CRC7 they stand for; a word of 40
bits is a response of shape R3, bits 39 to 32 its status byte (log entry 13). -/
def packetOfTableWord (nbits w : Nat) : Option Packet :=
  if nbits = 8 then
    let op := BitVec.ofNat 4 w
    if 0x1 ≤ op ∧ op ≤ 0xB then
      some (.request { Request.ofOp op with bytes := List.replicate (operandBytes op) 0, len := 6 })
    else some (.response .r1 [byteOfWord w 0])
  else if nbits = 48 then
    let covered := [byteOfWord w 5, byteOfWord w 4, byteOfWord w 3, byteOfWord w 2, byteOfWord w 1]
    let last := byteOfWord w 0
    some (.command (covered ++ [if last = 0x01 then frameByte5 (crc7 covered) else last]))
  else if nbits = 40 then
    some (.response .r3 [byteOfWord w 4, byteOfWord w 3, byteOfWord w 2, byteOfWord w 1, byteOfWord w 0])
  else none

/-- The instruction the decoder reads from an opcode-table word, with the default parameters; none where it refuses. -/
def decodeTableWord (nbits w : Nat) : Option Instr :=
  match packetOfTableWord nbits w with
  | none => none
  | some pk =>
    match decode Params.default pk with
    | .ok i => some i
    | .error _ => none

end Sys2Proof
end

