-- ==== Sys2Proof/Machine/State.lean ====
section
/-! DEFINITION. The CORE's state: every register of 10_state.md, the micro-step of R21 and the ports of R40 to R42, as plain
data; why a step can stop; and the state after reset (R36). A register the spec marks unset at reset holds a value the model
names (log entry 9). -/

namespace Sys2Proof.Machine

/-- The values of the `state` register (10_state.md R20). Codes 0x9 to 0xF are written by no rule. -/
inductive Stage where
  | detached
  | powerUp
  | idle
  | versionProbe
  | crcEnable
  | opCondWait
  | capacityProbe
  | ready
  | unusable
deriving DecidableEq, Repr

/-- The values of `version` other than `Unset` (10_state.md R34). -/
inductive CardVersion where
  | v1
  | v2
deriving DecidableEq, Repr

/-- The values of `capacity` other than `Unset` (10_state.md R35). -/
inductive CapClass where
  | standard
  | highOrExtended
deriving DecidableEq, Repr

/-- The errors of 60_exceptions.md R190 but `None`, which is the absence of one. -/
inductive Err where
  | chipSelectFault
  | busWriteFault
  | busTransferFault
  | readyTimeout
  | responseTimeout
  | commandRejected (kind : RejectKind)
  | unexpectedVoltage
  | checkPatternMismatch
  | cardUnusable
deriving DecidableEq, Repr

/-- A level `SetCS` drives (00_scope.md R12). -/
inductive Level where
  | high
  | low
deriving DecidableEq, Repr

/-- The values of `cs_level` (10_state.md R39). -/
inductive CsLevel where
  | unknown
  | high
  | low
deriving DecidableEq, Repr

/-! ## The capability port (10_state.md R40) -/

/-- A capability call (00_scope.md R12). -/
inductive Call where
  | xfer (out : Byte)
  | write (bytes : List Byte)
  | setCs (level : Level)
  | delay (us : Nat)
deriving DecidableEq, Repr

/-- The environment's answer to one call: a fault, or success with, for an exchange, the byte that came back. A Delay has
no fault answer (R12): there the flag is not looked at (log entry 3). -/
structure Answer where
  fault : Bool
  byte : Byte
deriving DecidableEq, Repr

/-- An event of the trace (00_scope.md R13). A failed exchange returned no byte; a failed write or chip-select call has
`ok` false. -/
inductive Event where
  /-- `X(o)->i` -/
  | xfer (out : Byte) (back : Option Byte)
  /-- `W[b0 .. bn]` -/
  | write (bytes : List Byte) (ok : Bool)
  /-- `CS(H)`, `CS(L)` -/
  | cs (level : Level) (ok : Bool)
  /-- `D(us)` -/
  | delay (us : Nat)
  /-- `SPD` -/
  | spd
deriving DecidableEq, Repr

/-! ## The host's ports (10_state.md R41, R42) -/

/-- What the host does to the CORE: it offers a request, or it asserts reset (70_reset_and_hazards.md R220). -/
inductive HostInput where
  | request (r : Request)
  | reset
deriving DecidableEq, Repr

/-- The success value of EXEC_CMD: "status byte and, for R3 or R7, 4 extra bytes" (30_encoding.md R70). -/
structure CmdResult where
  status : Byte
  extra : Option Quad
deriving DecidableEq, Repr

/-- One result in the list WITH_CS_LOW returns: of a WAIT_READY, of an EXEC_CMD. -/
inductive BodyResult where
  | ready
  | cmd (r : CmdResult)
deriving DecidableEq, Repr

/-- `rsp_data`: the success value of each operation (30_encoding.md R70); `none` for an operation that returns Ok alone and
for an error. -/
inductive RspData where
  | none
  | crc (c : Crc)
  | frame (f : Frame)
  | decoded (index : Index) (arg : Word) (prefixOk stopOk crcOk : Bool)
  | bit (b : Bool)
  | capacity (c : CapClass)
  | cmd (r : CmdResult)
  | results (rs : List BodyResult)
deriving DecidableEq, Repr

/-- A result on the response port (10_state.md R42). -/
structure Response where
  /-- `rsp_ok` -/
  ok : Bool
  /-- `rsp_data` -/
  data : RspData
  /-- `rsp_err` -/
  err : Option Err
  /-- `rsp_release` -/
  release : Bool
deriving DecidableEq, Repr

/-! ## The micro-step (10_state.md R21) -/

/-- A body element of a WITH_CS_LOW that has been accepted. -/
inductive BodyElem where
  | waitReady
  | execCmd (index : Index) (arg : Word) (shape : Shape)
deriving DecidableEq, Repr

/-- The commands INIT sends (30_encoding.md R80). -/
inductive InitCmd where
  | goIdle
  | sendIfCond
  | crcOnOff
  | appCmd
  | sdSendOpCond
  | readOcr
deriving DecidableEq, Repr

/-- The operands of the EXEC_CMD being run (43_bus_transaction.md R142). -/
structure CmdOperands where
  index : Index
  arg : Word
deriving DecidableEq, Repr

/-- The accepted operation that is being run. -/
inductive Op where
  | none
  | waitReady
  | execCmd
  /-- the elements still to run after the present one, and the results of those that have ended (R149) -/
  | withCsLow (rest : List BodyElem) (done : List BodyResult)
  /-- the command INIT is running or is about to run -/
  | init (cmd : InitCmd)
deriving DecidableEq, Repr

/-- The point in the pseudocode of the running rule (R21): the call that has been issued and is not answered yet, or a pure
part that runs next. -/
inductive Micro where
  /-- no operation is running -/
  | idle
  /-- in the exchange of `wait_ready` (R140) -/
  | readyXfer
  /-- in the delay between two attempts of `wait_ready` (R140) -/
  | readyDelay
  /-- EXEC_CMD builds its frame and issues the write next (R142) -/
  | sendFrame
  /-- in the frame write (R142) -/
  | frameWrite
  /-- in the exchange of `poll_status` (R143) -/
  | pollXfer
  /-- in the exchange of extra byte `k` (R144) -/
  | extraXfer (k : Fin 4)
  /-- the response is complete and is validated next (R145) -/
  | respond
  /-- in the assertion of a scope (R149) -/
  | csLow
  /-- in the restore of a scope, with the error that is in flight, if one is (R149, R150) -/
  | csHigh (inFlight : Option Err)
  /-- in PowerUp's delay (R162) -/
  | powerUpDelay
  /-- in PowerUp's plain drive of chip-select high (R162) -/
  | powerUpCsHigh
  /-- in PowerUp's write of the dummy bytes (R162) -/
  | powerUpWrite
  /-- in the delay after an idle-set OpCondWait iteration (R176) -/
  | opCondDelay
  /-- the stages are done and the last scope is closed: the Ready actions run next (R182) -/
  | finish
deriving DecidableEq, Repr

/-! ## State -/

/-- The CORE's state. -/
structure State where
  /-- the parameters of 00_scope.md R6 to R9; written by no step (R43) -/
  params : Params
  /-- `state` (R20, R21) -/
  state : Stage
  /-- `busy` (R22) -/
  busy : Bool
  /-- `crc` (R23) -/
  crc : Crc
  /-- `frame[0..5]` (R24) -/
  frame : Frame
  /-- `status` (R25) -/
  status : Byte
  /-- `extra[0..3]` (R28) -/
  extra : Quad
  /-- `shape` (R29) -/
  shape : Shape
  /-- `ready_cnt` (R30) -/
  readyCnt : Nat
  /-- `resp_cnt` (R31) -/
  respCnt : Nat
  /-- `vp_cnt` (R32) -/
  vpCnt : Nat
  /-- `oc_cnt` (R33) -/
  ocCnt : Nat
  /-- `version`, `Unset` as `none` (R34) -/
  version : Option CardVersion
  /-- `capacity`, `Unset` as `none` (R35) -/
  capacity : Option CapClass
  /-- `err_code`, code 0 `None` as `none` (R38) -/
  errCode : Option Err
  /-- `fail_state` (R38) -/
  failState : Stage
  /-- `cs_level` (R39) -/
  csLevel : CsLevel
  /-- `scope_open` (R39) -/
  scopeOpen : Bool
  /-- `owned` (R39) -/
  owned : Bool
  /-- `speedup_req` (R39) -/
  speedupReq : Bool
  /-- the micro-step (R21) -/
  micro : Micro
  /-- the operation being run -/
  op : Op
  /-- the operands of the EXEC_CMD being run; none while a plain WAIT_READY runs -/
  cmd : Option CmdOperands
  /-- the request port: what the host offers, the oldest first (R41, 30_encoding.md R72) -/
  host : List HostInput
  /-- the answers the environment still gives, the next first (00_scope.md R5) -/
  answers : List Answer
  /-- the event trace, in issue order (00_scope.md R13) -/
  trace : List Event
  /-- the response port's results, one per accepted request, in order (R42) -/
  rsp : List Response
deriving DecidableEq, Repr

/-! ## Why a step can stop -/

/-- The faults: programmer errors and forbidden reads. Each is final (60_exceptions.md R198). -/
inductive Fault where
  /-- ENCODE with `req_len` < 6 (41_frame_codec.md R110, 60_exceptions.md R193). Raised by ENCODE alone. Safe: the spec
  gives this request no result. -/
  | bufferTooShort
  /-- a request 30_encoding.md R72 refuses (60_exceptions.md R193). Raised where the request port takes a request, and by a
  meaning given operands R72 refuses. Safe: the spec gives such a request no result. -/
  | illegalRequest
  /-- a read of `version` or `capacity` while it holds `Unset` (92_eei_decisions.md D31: "no value. A read faults.",
  93_implementation_defined.md U15: "fault."). Raised in `readClass` alone; "No rule does such a read". Safe. -/
  | readWhileUnset
deriving DecidableEq, Repr

/-- The refusals: instructions with no meaning in this model. -/
inductive Refusal where
  /-- exec has no meaning for the instruction. Raised by exec's arm for it alone; no arm does. Safe. -/
  | notModelled (mnemonic : String)
deriving DecidableEq, Repr

/-- What one step or one meaning answers. -/
abbrev Out := Host.Outcome State Fault Refusal

/-! ## Reset -/

/-- The state after reset: *value after reset* of 10_state.md R36, the default parameters, and nothing on the ports. The six
registers R36 marks unset and gives no value hold zero, code 0 where they hold a code (log entry 9). -/
def State.reset : State where
  params := Params.default
  state := .detached
  busy := false
  crc := 0
  frame := ⟨0, 0, 0, 0, 0, 0⟩
  status := 0
  extra := ⟨0, 0, 0, 0⟩
  shape := .r1
  readyCnt := 0
  respCnt := 0
  vpCnt := 0
  ocCnt := 0
  version := none
  capacity := none
  errCode := none
  failState := .detached
  csLevel := .unknown
  scopeOpen := false
  owned := false
  speedupReq := false
  micro := .idle
  op := .none
  cmd := none
  host := []
  answers := []
  trace := []
  rsp := []

end Sys2Proof.Machine
end

