-- ==== Sys2Proof/Machine/Ops.lean ====
section
/-! DEFINITION. The named operations over the registers and the ports: codes, register reads and writes, the record of a
capability call, the ends of an operation. An operation that ends in an error takes `failOp` (60_exceptions.md R199) or, for
INIT, `abortInit` (R196); both are here, beside the ends in success. -/

namespace Sys2Proof.Machine

/-! ## Codes -/

/-- The 4-bit code of `state` (10_state.md R20). -/
def Stage.code : Stage → BitVec 4
  | .detached => 0x0
  | .powerUp => 0x1
  | .idle => 0x2
  | .versionProbe => 0x3
  | .crcEnable => 0x4
  | .opCondWait => 0x5
  | .capacityProbe => 0x6
  | .ready => 0x7
  | .unusable => 0x8

/-- The code of a CommandRejected error (60_exceptions.md R190). -/
def RejectKind.code : RejectKind → BitVec 4
  | .illegalCommand => 6
  | .crcError => 7
  | .eraseSequenceError => 8
  | .addressError => 9
  | .parameterError => 10

/-- The code of an error (60_exceptions.md R190). -/
def Err.code : Err → BitVec 4
  | .chipSelectFault => 1
  | .busWriteFault => 2
  | .busTransferFault => 3
  | .readyTimeout => 4
  | .responseTimeout => 5
  | .commandRejected k => k.code
  | .unexpectedVoltage => 11
  | .checkPatternMismatch => 12
  | .cardUnusable => 13

/-- The code `err_code` and `rsp_err` hold: 0 is `None` (60_exceptions.md R190). -/
def errCodeOf : Option Err → BitVec 4
  | none => 0
  | some e => e.code

/-- A state in which no handshake is in progress: INIT is accepted from these (44_init_fsm.md R160, R184). -/
def Stage.atRest : Stage → Bool
  | .detached | .ready | .unusable => true
  | _ => false

/-! ## Registers -/

/-- The read of `version` or `capacity`: what follows gets the class it holds. Reading one "while `Unset`" has "no value. A read
faults." (92_eei_decisions.md D31, 93_implementation_defined.md U15, 10_state.md R34, R35). -/
def readClass {α : Type} (r : Option α) (use : α → Out) : Out :=
  match r with
  | none => .fault .readWhileUnset
  | some x => use x

/-- The eight registers 10_state.md R36 marks unset, on INIT entry as after reset: `version` and `capacity` become `Unset`, the
six others take the value they have after reset (log entry 9). -/
def unsetRegs (s : State) : State :=
  { s with
    crc := State.reset.crc
    frame := State.reset.frame
    status := State.reset.status
    extra := State.reset.extra
    shape := State.reset.shape
    version := State.reset.version
    capacity := State.reset.capacity
    failState := State.reset.failState }

/-- `cs_level` after a `SetCS` call: the level driven, or `Unknown` when the call failed (10_state.md R39). -/
def csAfter (l : Level) (fault : Bool) : CsLevel :=
  if fault then .unknown else match l with
    | .high => .high
    | .low => .low

/-! ## The tests of the two echoes -/

/-- `check_if_echo` (42_response_parser.md R124): the voltage code is tested first. -/
def checkEcho (p : Params) (pattern : Byte) (q : Quad) : Option Err :=
  if q.voltage ≠ p.vhsCode then some .unexpectedVoltage
  else if q.pattern ≠ pattern then some .checkPatternMismatch
  else none

/-- `capacity_from_ocr` (42_response_parser.md R126). -/
def capacityFromOcr (q : Quad) : CapClass := if q.ccs then .highOrExtended else .standard

/-! ## The capability port (00_scope.md R12, R13) -/

/-- The event of a call and its answer. -/
def Call.event (a : Answer) : Call → Event
  | .xfer out => .xfer out (if a.fault then none else some a.byte)
  | .write bytes => .write bytes (!a.fault)
  | .setCs l => .cs l (!a.fault)
  | .delay us => .delay us

/-- The event is recorded in issue order. -/
def logEvent (e : Event) (s : State) : State := { s with trace := s.trace ++ [e] }

/-- The call that is issued and not answered (10_state.md R40); none where no call is out. -/
def pendingCall (s : State) : Option Call :=
  match s.micro with
  | .readyXfer | .pollXfer | .extraXfer _ => some (.xfer s.params.placeholder)
  | .readyDelay => some (.delay s.params.tReadyUs)
  | .frameWrite => some (.write s.frame.toList)
  | .csLow => some (.setCs .low)
  | .csHigh _ => some (.setCs .high)
  | .powerUpDelay => some (.delay s.params.tPowerupUs)
  | .powerUpCsHigh => some (.setCs .high)
  | .powerUpWrite => some (.write (List.replicate s.params.nDummy 0xFF))
  | .opCondDelay => some (.delay s.params.tOcUs)
  | .idle | .sendFrame | .respond | .finish => none

/-! ## The ends of an operation -/

/-- No operation runs: `busy <- 0`, and the micro-step is at rest. -/
def endOp (s : State) : State := { s with busy := false, micro := .idle, op := .none, cmd := none }

/-- An operation other than INIT returns a value: `err_code <- None`, the result on the response port (10_state.md R38, R42). -/
def returnOk (d : RspData) (s : State) : State :=
  endOp { s with errCode := none, rsp := s.rsp ++ [{ ok := true, data := d, err := none, release := false }] }

/-- An operation other than INIT ends in an error (60_exceptions.md R199). -/
def failOp (e : Err) (s : State) : State :=
  endOp { s with errCode := some e, rsp := s.rsp ++ [{ ok := false, data := .none, err := some e, release := false }] }

/-- INIT's abort (60_exceptions.md R196): `fail_state` takes the stage, `state` becomes Unusable, the port is released. -/
def abortInit (e : Err) (s : State) : State :=
  endOp { s with
    failState := s.state
    state := .unusable
    errCode := some e
    owned := false
    rsp := s.rsp ++ [{ ok := false, data := .none, err := some e, release := true }] }

/-- INIT ends in Ready with the capacity class (44_init_fsm.md R182). -/
def readyInit (c : CapClass) (s : State) : State :=
  endOp { s with
    state := .ready
    owned := false
    rsp := s.rsp ++ [{ ok := true, data := .capacity c, err := none, release := true }] }

/-! ## The starts of WAIT_READY and EXEC_CMD (43_bus_transaction.md R140, R142) -/

/-- The next attempt of `wait_ready`: the counter is incremented and the exchange issued. -/
def readyAttempt (s : State) : State := { s with readyCnt := s.readyCnt + 1, micro := .readyXfer }

/-- `wait_ready` from its beginning. -/
def startReady (s : State) : State := readyAttempt { s with readyCnt := 0 }

/-- A plain WAIT_READY. -/
def beginWaitReady (s : State) : State := startReady { s with cmd := none }

/-- EXEC_CMD: `shape <- shp; wait_ready()`. -/
def beginExecCmd (index : Index) (arg : Word) (shape : Shape) (s : State) : State :=
  startReady { s with shape := shape, cmd := some ⟨index, arg⟩ }

/-- The part of EXEC_CMD that emits the frame: `frame <- ENCODE(index, arg, 6)`, which leaves `crc` and `err_code` as ENCODE
does, and the write issued (43_bus_transaction.md R142, 41_frame_codec.md R110). -/
def sendCommand (index : Index) (arg : Word) (s : State) : State :=
  { s with
    frame := frameOf index arg
    crc := frameCrc index arg
    errCode := none
    busy := true
    cmd := some ⟨index, arg⟩
    micro := .frameWrite }

/-! ## Reset (70_reset_and_hazards.md R220) -/

/-- Every register takes its *value after reset*; no call is issued. The parameters, what the host and the environment still
hold, and what has been recorded are no registers and stay. -/
def applyReset (s : State) : State :=
  { State.reset with
    params := s.params
    host := s.host
    answers := s.answers
    trace := s.trace
    rsp := s.rsp }

end Sys2Proof.Machine
end

