-- ==== Sys2Proof/Machine/Handshake.lean ====
section
/-! DEFINITION. The stages of INIT (44_init_fsm.md R161 to R185) as the moves from the end of one command, delay or scope to
the next call. Where a stage sends a command, `startCmd` opens the command's own scope under `PerCommand` and starts the
EXEC_CMD at once under `WholeHandshake` (R161, R185). -/

namespace Sys2Proof.Machine

/-- An error leaves INIT's stages (R183): an open scope unwinds first (43_bus_transaction.md R150), then the abort. -/
def initRaise (e : Err) (s : State) : State :=
  if s.scopeOpen then { s with micro := .csHigh (some e) } else abortInit e s

/-- Index, argument and shape of a command of INIT (30_encoding.md R80 to R83). SD_SEND_OP_COND's argument reads `version`. -/
def initOperands (c : InitCmd) (s : State) : Option (Index × Word × Shape) :=
  let p := s.params
  match c with
  | .goIdle => some (p.idxGoIdle, 0, .r1)
  | .sendIfCond => some (p.idxSendIfCond, ifCondArg p.vhsCode p.checkPattern, .r7)
  | .crcOnOff => some (p.idxCrcOnOff, p.crcOnArg, .r1)
  | .appCmd => some (p.idxAppCmd, p.appCmdArg, .r1)
  | .sdSendOpCond => s.version.map fun v => (p.idxSdSendOpCond, opCondArg p (v == .v2), .r1)
  | .readOcr => some (p.idxReadOcr, p.readOcrArg, .r3)

/-- `exec_cmd` of the command INIT is at. -/
def runCmd (c : InitCmd) (s : State) : Out :=
  readClass (initOperands c s) fun (index, arg, shape) => .next (beginExecCmd index arg shape s)

/-- `cmd(i, a, s)` of R185. -/
def startCmd (c : InitCmd) (s : State) : Out :=
  match s.params.csScope with
  | .wholeHandshake => runCmd c { s with op := .init c }
  | .perCommand => .next { s with op := .init c, micro := .csLow }

/-- The stage Idle (R164). -/
def enterIdle (s : State) : Out := startCmd .goIdle { s with state := .idle }

/-- The head of VersionProbe's loop (R167, R168, R172). -/
def versionAttempt (s : State) : Out :=
  if s.vpCnt = s.params.nVp then .next (initRaise .cardUnusable s)
  else startCmd .sendIfCond { s with vpCnt := s.vpCnt + 1 }

/-- The stage VersionProbe (R166). -/
def enterVersionProbe (s : State) : Out := versionAttempt { s with state := .versionProbe, vpCnt := 0 }

/-- The stage CrcEnable (R174), entered with the version found (R169, R171). -/
def enterCrcEnable (v : CardVersion) (s : State) : Out :=
  startCmd .crcOnOff { s with version := some v, state := .crcEnable }

/-- The head of OpCondWait's loop (R175, R177). -/
def opCondIteration (s : State) : Out :=
  if s.ocCnt = s.params.nOc then .next (initRaise .cardUnusable s)
  else startCmd .appCmd { s with ocCnt := s.ocCnt + 1 }

/-- The stage OpCondWait (R175). -/
def enterOpCondWait (s : State) : Out := opCondIteration { s with state := .opCondWait, ocCnt := 0 }

/-- The Ready actions (R182), after the last scope is closed: the speed-up if the request brought one, which is the one event
`SPD`, then Ready with the capacity class. -/
def finishInit (s : State) : Out :=
  readClass s.capacity fun c => .next (readyInit c (if s.speedupReq then logEvent .spd s else s))

/-- The stages are done: the handshake scope is closed, if there is one (R161), and then the Ready actions run. -/
def endStages (s : State) : State :=
  match s.params.csScope with
  | .wholeHandshake => { s with micro := .csHigh none }
  | .perCommand => { s with micro := .finish }

/-- The stage CapacityProbe (R179 to R181). -/
def enterCapacityProbe (s : State) : Out :=
  readClass s.version fun v =>
    match v with
    | .v1 => .next (endStages { s with state := .capacityProbe, capacity := some .standard })
    | .v2 => startCmd .readOcr { s with state := .capacityProbe }

/-- The echo of a successful SEND_IF_COND (R170 to R172). -/
def judgeEcho (s : State) : Out :=
  match checkEcho s.params s.params.checkPattern s.extra with
  | none => enterCrcEnable .v2 { s with errCode := none }
  | some _ => versionAttempt s

/-- The idle test after a successful SD_SEND_OP_COND (R176). -/
def judgeIdle (s : State) : Out :=
  if idleFlag s.status then .next { s with micro := .opCondDelay } else enterCapacityProbe s

/-- The OCR of a successful READ_OCR (R181). -/
def judgeOcr (s : State) : Out :=
  .next (endStages { s with capacity := some (capacityFromOcr s.extra), errCode := none })

/-- A command of INIT has ended in success (R165, R170, R174 to R176, R181). -/
def stageOk (c : InitCmd) (s : State) : Out :=
  match c with
  | .goIdle => enterVersionProbe s
  | .sendIfCond => judgeEcho s
  | .crcOnOff => enterOpCondWait s
  | .appCmd => startCmd .sdSendOpCond s
  | .sdSendOpCond => judgeIdle s
  | .readOcr => judgeOcr s

/-- A command of INIT has ended in an error. VersionProbe catches IllegalCommand and classifies the card as V1 (R169); every
other error is fatal (R164, R173, R174, R178, R181). -/
def stageErr (c : InitCmd) (e : Err) (s : State) : Out :=
  if c = .sendIfCond ∧ e = .commandRejected .illegalCommand then enterCrcEnable .v1 s
  else .next (initRaise e s)

end Sys2Proof.Machine
end

