-- ==== Sys2Proof/Machine/Sequencer.lean ====
section
/-! DEFINITION. The bus sequencer (43_bus_transaction.md): how the answer to the outstanding call carries the running operation
on to its next call or to its end. `raise` is the one place where an error of `wait_ready` or `exec_cmd` is taken, `cmdOk` and
`readyOk` the returns beside it. -/

namespace Sys2Proof.Machine

/-! ## Ends of a part, handed to the operation that runs it -/

/-- An error raised inside `wait_ready` or `exec_cmd` (60_exceptions.md R195): a standalone operation ends (R199); an open
scope of WITH_CS_LOW, or of INIT's single command, is left through its restore (43_bus_transaction.md R150); under
`WholeHandshake` INIT's stage sees the error first. -/
def raise (e : Err) (s : State) : Out :=
  match s.op with
  | .none | .waitReady | .execCmd => .next (failOp e s)
  | .withCsLow _ _ => .next { s with micro := .csHigh (some e) }
  | .init c =>
    match s.params.csScope with
    | .wholeHandshake => stageErr c e s
    | .perCommand => .next { s with micro := .csHigh (some e) }

/-- The next element of the body, or the restore after the last (43_bus_transaction.md R149). -/
def nextElem (body : List BodyElem) (done : List BodyResult) (s : State) : State :=
  match body with
  | [] => { s with op := .withCsLow [] done, micro := .csHigh none }
  | .waitReady :: rest => beginWaitReady { s with op := .withCsLow rest done }
  | .execCmd index arg shape :: rest => beginExecCmd index arg shape { s with op := .withCsLow rest done }

/-- A plain WAIT_READY has succeeded (R140). -/
def plainReadyOk (s : State) : State :=
  match s.op with
  | .withCsLow rest done => nextElem rest (done ++ [.ready]) s
  | _ => returnOk .none s

/-- `wait_ready` has succeeded: inside EXEC_CMD the frame is next (R142). -/
def readyOk (s : State) : State :=
  match s.cmd with
  | none => plainReadyOk { s with errCode := none }
  | some _ => { s with errCode := none, micro := .sendFrame }

/-- EXEC_CMD has succeeded with a result (R142). -/
def cmdOk (r : CmdResult) (s : State) : Out :=
  match s.op with
  | .none | .waitReady | .execCmd => .next (returnOk (.cmd r) s)
  | .withCsLow rest done => .next (nextElem rest (done ++ [.cmd r]) s)
  | .init c =>
    match s.params.csScope with
    | .wholeHandshake => stageOk c s
    | .perCommand => .next { s with micro := .csHigh none }

/-! ## The answers (43_bus_transaction.md R140, R143, R144) -/

/-- The head of `poll_status`'s loop (R143). -/
def pollAttempt (s : State) : Out :=
  if s.respCnt = s.params.nResp then raise .responseTimeout s
  else .next { s with respCnt := s.respCnt + 1, micro := .pollXfer }

/-- `poll_status` from its beginning (R143). -/
def startPoll (s : State) : Out := pollAttempt { s with respCnt := 0 }

/-- The exchange of `wait_ready` has returned `b` (R140). -/
def readyByte (b : Byte) (s : State) : Out :=
  if b = sentinel then .next (readyOk s)
  else if s.readyCnt = s.params.nReady then raise .readyTimeout s
  else .next { s with micro := .readyDelay }

/-- The status byte has come: the extra bytes are next, or the response is complete (R143, R144). -/
def statusByte (b : Byte) (s : State) : State :=
  let s := { s with status := b }
  if readsExtra s.shape b then { s with micro := .extraXfer 0 } else { s with micro := .respond }

/-- The exchange of `poll_status` has returned `b` (R143). -/
def pollByte (b : Byte) (s : State) : Out :=
  if b = sentinel then pollAttempt s
  else .next (statusByte b s)

/-- The exchange of extra byte `k` has returned `b` (R144). -/
def extraByte (k : Fin 4) (b : Byte) (s : State) : State :=
  let s := { s with extra := s.extra.set k b }
  if h : k.val + 1 < 4 then { s with micro := .extraXfer ⟨k.val + 1, h⟩ } else { s with micro := .respond }

/-! ## Scopes (R149, R150; 44_init_fsm.md R161) -/

/-- `CS(L)` has been answered. On a fault the scope was never entered: no body, no restore (D14). -/
def csLowAnswered (fault : Bool) (s : State) : Out :=
  let s := { s with csLevel := csAfter .low fault }
  if fault then
    match s.op with
    | .init c =>
      match s.params.csScope with
      | .wholeHandshake => .next (initRaise .chipSelectFault s)
      | .perCommand => stageErr c .chipSelectFault s
    | _ => .next (failOp .chipSelectFault s)
  else
    let s := { s with scopeOpen := true }
    match s.op with
    | .withCsLow body done => .next (nextElem body done s)
    | .init c =>
      match s.params.csScope with
      | .wholeHandshake => enterIdle s
      | .perCommand => runCmd c s
    | _ => .next s

/-- What a scope hands on once its restore has been answered: the error in flight, else the restore's own fault (R149). -/
def scopeError (inFlight : Option Err) (fault : Bool) : Option Err :=
  match inFlight with
  | some e => some e
  | none => if fault then some .chipSelectFault else none

/-- `CS(H)` at the end of a scope has been answered (R149, R150). -/
def csHighAnswered (inFlight : Option Err) (fault : Bool) (s : State) : Out :=
  let s := { s with csLevel := csAfter .high fault, scopeOpen := false }
  match s.op, scopeError inFlight fault with
  | .withCsLow _ done, none => .next (returnOk (.results done) s)
  | .init c, none =>
    match s.params.csScope with
    | .wholeHandshake => .next { s with micro := .finish }
    | .perCommand => stageOk c s
  | .init c, some e =>
    match s.params.csScope with
    | .wholeHandshake => .next (abortInit e s)
    | .perCommand => stageErr c e s
  | _, some e => .next (failOp e s)
  | _, none => .next (returnOk .none s)

/-! ## PowerUp (44_init_fsm.md R162, R163) -/

/-- `SetCS(High)` of PowerUp has been answered. -/
def powerUpCsAnswered (fault : Bool) (s : State) : State :=
  let s := { s with csLevel := csAfter .high fault }
  if fault then initRaise .chipSelectFault s else { s with micro := .powerUpWrite }

/-- The dummy write of PowerUp has been answered: the handshake scope opens, or Idle is entered (R163). -/
def powerUpWritten (fault : Bool) (s : State) : Out :=
  if fault then .next (initRaise .busWriteFault s)
  else match s.params.csScope with
    | .wholeHandshake => .next { s with micro := .csLow }
    | .perCommand => enterIdle s

/-! ## One answer -/

/-- The environment answers the outstanding call: the event is recorded (00_scope.md R13) and the running rule goes on. A
faulted exchange is BusTransferFault, a faulted write BusWriteFault, a faulted `SetCS` ChipSelectFault (R12). -/
def resume (a : Answer) (s : State) : Out :=
  match pendingCall s with
  | none => .next s
  | some call =>
    let s := logEvent (call.event a) s
    match s.micro with
    | .readyXfer => if a.fault then raise .busTransferFault s else readyByte a.byte s
    | .readyDelay => .next (readyAttempt s)
    | .frameWrite => if a.fault then raise .busWriteFault s else startPoll s
    | .pollXfer => if a.fault then raise .busTransferFault s else pollByte a.byte s
    | .extraXfer k => if a.fault then raise .busTransferFault s else .next (extraByte k a.byte s)
    | .csLow => csLowAnswered a.fault s
    | .csHigh inFlight => csHighAnswered inFlight a.fault s
    | .powerUpDelay => .next { s with micro := .powerUpCsHigh }
    | .powerUpCsHigh => .next (powerUpCsAnswered a.fault s)
    | .powerUpWrite => powerUpWritten a.fault s
    | .opCondDelay => opCondIteration s
    | .idle | .sendFrame | .respond | .finish => .next s

end Sys2Proof.Machine
end

