-- ==== Sys2Proof/Machine/Bus.lean ====
section
/-! DEFINITION. The bus requests (43_bus_transaction.md), INIT (44_init_fsm.md R160) and the seven command frames
(30_encoding.md R80). A bus request's meaning sets `busy` and runs its rule up to the first call; the answers carry it on. -/

namespace Sys2Proof.Machine

/-! ## Requests -/

/-- `WAIT_READY` (R140). -/
def execWaitReady (s : State) : Out :=
  .next (beginWaitReady { s with busy := true, op := .waitReady })

/-- `EXEC_CMD` (R142). -/
def execExecCmd (index : Index) (arg : Word) (shape : BitVec 2) (s : State) : Out :=
  match shapeOfCode shape with
  | none => .fault .illegalRequest
  | some sh => .next (beginExecCmd index arg sh { s with busy := true, op := .execCmd })

/-- The elements of a body with their shapes named; none where a shape code names none (30_encoding.md R86). -/
def resolveBody : List BodyOp → Option (List BodyElem)
  | [] => some []
  | .waitReady :: rest => (resolveBody rest).map (.waitReady :: ·)
  | .execCmd index arg shape :: rest =>
    match shapeOfCode shape with
    | none => none
    | some sh => (resolveBody rest).map (.execCmd index arg sh :: ·)

/-- `WITH_CS_LOW` (R149). -/
def execWithCsLow (body : List BodyOp) (s : State) : Out :=
  match resolveBody body with
  | none => .fault .illegalRequest
  | some elems => .next { s with busy := true, op := .withCsLow elems [], cmd := none, micro := .csLow }

/-- `INIT` (44_init_fsm.md R160): every register takes its *value on INIT entry* (10_state.md R36), then PowerUp (R162). -/
def execInit (speedup : Bool) (s : State) : Out :=
  .next { unsetRegs s with
    state := .powerUp
    busy := true
    readyCnt := 0
    respCnt := 0
    vpCnt := 0
    ocCnt := 0
    errCode := none
    scopeOpen := false
    owned := true
    speedupReq := speedup
    micro := .powerUpDelay
    op := .init .goIdle
    cmd := none }

/-! ## Command frames: EXEC_CMD emits the frame of the row -/

/-- `CMD_n` (30_encoding.md R73). -/
def execCmdN (index : Index) (arg : Word) (s : State) : Out := .next (sendCommand index arg s)

/-- `GO_IDLE_STATE` (30_encoding.md R80). -/
def execGoIdleState (s : State) : Out := .next (sendCommand s.params.idxGoIdle 0 s)

/-- `SEND_IF_COND` (30_encoding.md R81). -/
def execSendIfCond (vhs : BitVec 4) (pattern : Byte) (s : State) : Out :=
  .next (sendCommand s.params.idxSendIfCond (ifCondArg vhs pattern) s)

/-- `CRC_ON_OFF` (30_encoding.md R83). -/
def execCrcOnOff (s : State) : Out := .next (sendCommand s.params.idxCrcOnOff s.params.crcOnArg s)

/-- `APP_CMD` (30_encoding.md R80, R83). -/
def execAppCmd (s : State) : Out := .next (sendCommand s.params.idxAppCmd s.params.appCmdArg s)

/-- `SD_SEND_OP_COND` (30_encoding.md R82). -/
def execSdSendOpCond (hcs : Bool) (s : State) : Out :=
  .next (sendCommand s.params.idxSdSendOpCond (opCondArg s.params hcs) s)

/-- `READ_OCR` (30_encoding.md R80, R83). -/
def execReadOcr (s : State) : Out := .next (sendCommand s.params.idxReadOcr s.params.readOcrArg s)

end Sys2Proof.Machine
end

