-- ==== Sys2Proof/Machine/Codec.lean ====
section
/-! DEFINITION. The pure codec requests: CRC7 (40_crc7.md), ENCODE and DECODE_CMD (41_frame_codec.md). -/

namespace Sys2Proof.Machine

/-- `CRC7` (40_crc7.md R103): the result stays in `crc` (R102). -/
def execCrc7 (bytes : List Byte) (s : State) : Out :=
  .next (returnOk (.crc (crc7 bytes)) { s with crc := crc7 bytes })

/-- `ENCODE` (41_frame_codec.md R110): a destination shorter than six bytes is the fault; a longer one gets exactly six. -/
def execEncode (index : Index) (arg : Word) (len : Nat) (s : State) : Out :=
  if len < 6 then .fault .bufferTooShort
  else
    let f := frameOf index arg
    .next (returnOk (.frame f) { s with frame := f, crc := frameCrc index arg })

/-- `DECODE_CMD` (41_frame_codec.md R112): decoded whatever the checks say, with one bit for each of them. -/
def execDecodeCmd (bytes : List Byte) (s : State) : Out :=
  match frameOfBytes bytes with
  | none => .fault .illegalRequest
  | some f =>
    .next (returnOk (.decoded f.index f.arg f.prefixOk f.stopOk f.crcOk) { s with crc := crc7 f.covered })

end Sys2Proof.Machine
end

