-- ==== Sys2Proof/Machine/Parser.lean ====
section
/-! DEFINITION. The response parser (42_response_parser.md): the four pure requests, and the three response forms as EXEC_CMD
takes them in (43_bus_transaction.md R142 to R145). -/

namespace Sys2Proof.Machine

/-! ## Requests -/

/-- `STATUS_CHECK_ERROR` (R120). -/
def execStatusCheckError (bytes : List Byte) (s : State) : Out :=
  match bytes with
  | [st] =>
    match statusError st with
    | some kind => .next (failOp (.commandRejected kind) { s with status := st })
    | none => .next (returnOk .none { s with status := st })
  | _ => .fault .illegalRequest

/-- `STATUS_IS_TRUNCATED` (R122). -/
def execStatusIsTruncated (bytes : List Byte) (s : State) : Out :=
  match bytes with
  | [st] => .next (returnOk (.bit (isTruncated st)) { s with status := st })
  | _ => .fault .illegalRequest

/-- Four operand bytes. -/
def quadOfBytes : List Byte → Option Quad
  | [e0, e1, e2, e3] => some ⟨e0, e1, e2, e3⟩
  | _ => none

/-- `CHECK_IF_ECHO` (R124). -/
def execCheckIfEcho (bytes : List Byte) (pattern : Byte) (s : State) : Out :=
  match quadOfBytes bytes with
  | none => .fault .illegalRequest
  | some q =>
    match checkEcho s.params pattern q with
    | some e => .next (failOp e s)
    | none => .next (returnOk .none s)

/-- `CAPACITY_FROM_OCR` (R126): the class is returned, `capacity` is not written. -/
def execCapacityFromOcr (bytes : List Byte) (s : State) : Out :=
  match quadOfBytes bytes with
  | none => .fault .illegalRequest
  | some q => .next (returnOk (.capacity (capacityFromOcr q)) s)

/-! ## Responses -/

/-- A complete response: its bytes are in `status` and, where it has them, in `extra`; then `check_error` (R145). -/
def receive (status : Byte) (extra : Option Quad) (s : State) : Out :=
  let s := { s with
    status := status
    extra := extra.getD s.extra }
  match statusError status with
  | some kind => raise (.commandRejected kind) s
  | none => cmdOk { status := status, extra := extra } { s with errCode := none }

/-- A response of a status byte and perhaps an echo. The byte 0xFF is no response and the poll goes on (R143); a truncated
status has no echo (R144). -/
def respond (status : Byte) (echo : Option Quad) (s : State) : Out :=
  if status = sentinel then pollAttempt s
  else receive status (if isTruncated status then none else echo) s

/-- `RESP_R1`: the status byte alone (30_encoding.md R77). -/
def execRespR1 (status : Byte) (s : State) : Out := respond status none s

/-- `RESP_R3`: the status byte and the OCR echo (30_encoding.md R79). -/
def execRespR3 (status : Byte) (ocr : Word) (s : State) : Out := respond status (some (bytesBe32 ocr)) s

/-- `RESP_R7`: the status byte and the interface-condition echo (30_encoding.md R78). -/
def execRespR7 (status : Byte) (echo : Word) (s : State) : Out := respond status (some (bytesBe32 echo)) s

end Sys2Proof.Machine
end

