-- ==== Sys2Proof/Machine/Dispatch.lean ====
section
/-! DEFINITION. The meaning of each row of spec/opcode_table.json, one arm per constructor. -/

namespace Sys2Proof.Machine

def exec (i : Instr) (s : State) : Host.Outcome State Fault Refusal :=
  match i with
  | .crc7 bytes => Sys2Proof.Machine.execCrc7 bytes s
  | .encode index arg len => Sys2Proof.Machine.execEncode index arg len s
  | .decodeCmd bytes => Sys2Proof.Machine.execDecodeCmd bytes s
  | .statusCheckError bytes => Sys2Proof.Machine.execStatusCheckError bytes s
  | .statusIsTruncated bytes => Sys2Proof.Machine.execStatusIsTruncated bytes s
  | .checkIfEcho bytes pattern => Sys2Proof.Machine.execCheckIfEcho bytes pattern s
  | .capacityFromOcr bytes => Sys2Proof.Machine.execCapacityFromOcr bytes s
  | .waitReady => Sys2Proof.Machine.execWaitReady s
  | .execCmd index arg shape => Sys2Proof.Machine.execExecCmd index arg shape s
  | .withCsLow body => Sys2Proof.Machine.execWithCsLow body s
  | .init speedup => Sys2Proof.Machine.execInit speedup s
  | .cmdN index arg => Sys2Proof.Machine.execCmdN index arg s
  | .goIdleState => Sys2Proof.Machine.execGoIdleState s
  | .sendIfCond vhs pattern => Sys2Proof.Machine.execSendIfCond vhs pattern s
  | .crcOnOff => Sys2Proof.Machine.execCrcOnOff s
  | .appCmd => Sys2Proof.Machine.execAppCmd s
  | .sdSendOpCond hcs => Sys2Proof.Machine.execSdSendOpCond hcs s
  | .readOcr => Sys2Proof.Machine.execReadOcr s
  | .respR1 status => Sys2Proof.Machine.execRespR1 status s
  | .respR3 status ocr => Sys2Proof.Machine.execRespR3 status ocr s
  | .respR7 status echo => Sys2Proof.Machine.execRespR7 status echo s

end Sys2Proof.Machine
end

