-- ==== Sys2Proof/Machine/Fetch.lean ====
section
/-! DEFINITION. Where the next thing the CORE runs comes from. While no operation runs it is the request at the request port
(30_encoding.md R72). While EXEC_CMD runs it is, at two points of its pseudocode, the frame it emits and the response it has
received (43_bus_transaction.md R142). Everywhere else it is the answer to the outstanding call (log entry 4). -/

namespace Sys2Proof.Machine

/-- What the next step is. -/
inductive Fetched where
  /-- run an instruction in this state -/
  | run (i : Instr) (s : State)
  /-- anything else: the outcome -/
  | done (o : Out)

/-- The frame EXEC_CMD emits, from its operands. `cmd` is no register of the spec: where it holds none there is no frame to
emit and nothing moves (log entry 33). -/
def fetchFrame (s : State) : Fetched :=
  match s.cmd with
  | none => .done (.next s)
  | some c => .run (commandOf s.params c.index c.arg) s

/-- The row of the response in `status` and `extra` (43_bus_transaction.md R144; log entry 17). -/
def responseOf (shape : Shape) (status : Byte) (extra : Quad) : Instr :=
  if isTruncated status then .respR1 status
  else match shape with
    | .r1 => .respR1 status
    | .r3 => .respR3 status (be32 extra)
    | .r7 => .respR7 status (be32 extra)

/-- The response EXEC_CMD has received, from the registers it is in. -/
def fetchResponse (s : State) : Fetched := .run (responseOf s.shape s.status s.extra) s

/-- The answer to the outstanding call; while there is none the CORE waits and nothing changes
(70_reset_and_hazards.md R228). -/
def fetchAnswer (s : State) : Fetched :=
  match s.answers with
  | [] => .done (.next s)
  | a :: rest => .done (resume a { s with answers := rest })

/-- The running operation goes on. -/
def fetchBusy (s : State) : Fetched :=
  match s.micro with
  | .idle => .done (.next s)
  | .sendFrame => fetchFrame s
  | .respond => fetchResponse s
  | .finish => .done (finishInit s)
  | _ => fetchAnswer s

/-- The request port: a request is decoded and run, or refused (R72); reset is taken (70_reset_and_hazards.md R220); with
nothing offered the CORE is at rest (60_exceptions.md R208). -/
def fetchHost (s : State) : Fetched :=
  match s.host with
  | [] => .done (.next s)
  | .reset :: rest => .done (.next (applyReset { s with host := rest }))
  | .request r :: rest =>
    match decodeRequest r with
    | .error _ => .done (.fault .illegalRequest)
    | .ok i => .run i { s with host := rest }

/-- While an operation runs the request port is not looked at (R72, 70_reset_and_hazards.md R231). -/
def fetch (s : State) : Fetched :=
  if s.busy then fetchBusy s else fetchHost s

/-! ## A word of the opcode table where the machine fetches -/

/-- A packet put where the machine fetches its next instruction: a request at the head of the request port, the CORE being at
rest; a frame as the operands of a running EXEC_CMD that is about to emit it; a response in the registers of a running
EXEC_CMD that has just received it (log entry 14). -/
def placePacket (pk : Packet) (s : State) : State :=
  match pk with
  | .request r => { endOp s with host := .request r :: s.host }
  | .command bytes =>
    match frameOfBytes bytes with
    | none => s
    | some f =>
      { s with busy := true, op := .execCmd, cmd := some ⟨f.index, f.arg⟩, micro := .sendFrame }
  | .response shape bytes =>
    { s with
      busy := true
      op := .execCmd
      cmd := some (s.cmd.getD ⟨0, 0⟩)
      shape := shape
      status := bytes.headD s.status
      extra := (quadOfBytes (bytes.drop 1)).getD s.extra
      micro := .respond }

end Sys2Proof.Machine
end

