-- ==== Sys2Proof/Safety.lean ====
section
/-! DEFINITION. What a safe run of the CORE is, in the terms the statements use: the invariant of the machine, the moves of
`state` (44_init_fsm.md R184), and the counts of 43_bus_transaction.md R147 and 44_init_fsm.md R186. -/

namespace Sys2Proof.Machine

/-! ## The commands of INIT -/

/-- The stage a command of INIT is sent in (30_encoding.md R80). -/
def InitCmd.stage : InitCmd → Stage
  | .goIdle => .idle
  | .sendIfCond => .versionProbe
  | .crcOnOff => .crcEnable
  | .appCmd => .opCondWait
  | .sdSendOpCond => .opCondWait
  | .readOcr => .capacityProbe

/-- The shape a command of INIT is sent with (30_encoding.md R80). -/
def InitCmd.shape : InitCmd → Shape
  | .sendIfCond => .r7
  | .readOcr => .r3
  | .goIdle | .crcOnOff | .appCmd | .sdSendOpCond => .r1

/-- The index a command of INIT is sent with (30_encoding.md R80). -/
def InitCmd.index (p : Params) : InitCmd → Index
  | .goIdle => p.idxGoIdle
  | .sendIfCond => p.idxSendIfCond
  | .crcOnOff => p.idxCrcOnOff
  | .appCmd => p.idxAppCmd
  | .sdSendOpCond => p.idxSdSendOpCond
  | .readOcr => p.idxReadOcr

/-- The argument a command of INIT is sent with, for a card of version `v` (30_encoding.md R81 to R83). -/
def InitCmd.arg (p : Params) (v : Option CardVersion) : InitCmd → Word
  | .sendIfCond => 0#20 ++ p.vhsCode ++ p.checkPattern
  | .crcOnOff => p.crcOnArg
  | .sdSendOpCond => if v = some .v2 then BitVec.twoPow 32 p.hcsBit else 0
  | .appCmd => p.appCmdArg
  | .readOcr => p.readOcrArg
  | .goIdle => 0

/-- What `version` is while a command of INIT runs: unset up to VersionProbe, set after it, V2 for READ_OCR
(10_state.md R34, 44_init_fsm.md R179). -/
def InitCmd.versionOk (c : InitCmd) (v : Option CardVersion) : Prop :=
  match c with
  | .goIdle | .sendIfCond => v = none
  | .crcOnOff | .appCmd | .sdSendOpCond => v.isSome = true
  | .readOcr => v = some .v2

/-! ## The invariant -/

/-- The two echo errors, which never leave VersionProbe (60_exceptions.md R192). -/
def Err.isEcho : Err → Bool
  | .unexpectedVoltage | .checkPatternMismatch => true
  | _ => false

/-- The registers a point inside `wait_ready` or `exec_cmd` rests on. -/
def CommandPoint (s : State) : Prop :=
  match s.micro with
  | .readyXfer => 1 ≤ s.readyCnt ∧ s.readyCnt ≤ s.params.nReady
  | .readyDelay => 1 ≤ s.readyCnt ∧ s.readyCnt < s.params.nReady
  | .sendFrame => s.cmd.isSome = true
  | .frameWrite => ∃ c, s.cmd = some c ∧ s.frame = frameOf c.index c.arg
  | .pollXfer => s.cmd.isSome = true ∧ 1 ≤ s.respCnt ∧ s.respCnt ≤ s.params.nResp
  | .extraXfer _ => s.cmd.isSome = true ∧ s.status ≠ sentinel ∧ readsExtra s.shape s.status = true
  | .respond => s.cmd.isSome = true ∧ s.status ≠ sentinel
  | _ => False

/-- A point inside INIT. -/
def InitPoint (c : InitCmd) (s : State) : Prop :=
  match s.micro with
  | .powerUpDelay | .powerUpCsHigh | .powerUpWrite =>
    c = .goIdle ∧ s.state = .powerUp ∧ s.scopeOpen = false ∧ s.version = none
      ∧ (s.micro = .powerUpWrite → s.csLevel = .high)
  | .csLow =>
    s.scopeOpen = false ∧ c.versionOk s.version ∧
      match s.params.csScope with
      | .wholeHandshake => c = .goIdle ∧ s.state = .powerUp
      | .perCommand => s.state = c.stage
  | .csHigh inFlight =>
    s.scopeOpen = true ∧ (∀ e, inFlight = some e → e.isEcho = false) ∧
      match s.params.csScope with
      | .wholeHandshake =>
        s.state.atRest = false ∧ s.state ≠ .powerUp ∧
          (inFlight = none → s.state = .capacityProbe ∧ s.capacity.isSome = true)
      | .perCommand => s.state = c.stage ∧ c.versionOk s.version
  | .opCondDelay =>
    c = .sdSendOpCond ∧ s.state = .opCondWait ∧ s.version.isSome = true ∧
      (s.scopeOpen = true ↔ s.params.csScope = .wholeHandshake)
  | .finish => s.state = .capacityProbe ∧ s.scopeOpen = false ∧ s.capacity.isSome = true
  | _ =>
    CommandPoint s ∧ s.scopeOpen = true ∧ s.cmd = some ⟨c.index s.params, c.arg s.params s.version⟩ ∧ s.state = c.stage
      ∧ c.versionOk s.version ∧ s.shape = c.shape

/-- A point inside WITH_CS_LOW. -/
def ScopePoint (rest : List BodyElem) (done : List BodyResult) (s : State) : Prop :=
  match s.micro with
  | .csLow => s.scopeOpen = false ∧ done = []
  | .csHigh inFlight => s.scopeOpen = true ∧ (inFlight = none → rest = [])
  | _ => CommandPoint s ∧ s.scopeOpen = true

/-- The running operation and the registers it rests on. -/
def Running (s : State) : Prop :=
  match s.op with
  | .none => False
  | .waitReady => CommandPoint s ∧ s.cmd = none ∧ s.scopeOpen = false ∧ s.owned = false ∧ s.state.atRest = true
  | .execCmd => CommandPoint s ∧ s.cmd.isSome = true ∧ s.scopeOpen = false ∧ s.owned = false ∧ s.state.atRest = true
  | .withCsLow rest done => ScopePoint rest done s ∧ s.owned = false ∧ s.state.atRest = true
  | .init c => InitPoint c s ∧ s.owned = true ∧ s.errCode = none

/-- No operation runs. -/
def AtRest (s : State) : Prop :=
  s.micro = .idle ∧ s.op = .none ∧ s.cmd = none ∧ s.scopeOpen = false ∧ s.owned = false ∧ s.state.atRest = true

/-- The invariant of the machine. -/
structure CoreInv (s : State) : Prop where
  /-- the parameters are legal (00_scope.md R6, R7) -/
  params : s.params.wf = true
  /-- while not busy nothing runs, no scope is open and the port is not owned (10_state.md R22, R39) -/
  rest : s.busy = false → AtRest s
  /-- while busy the machine is at a point of the running operation -/
  running : s.busy = true → Running s
  /-- inside a scope chip-select is low (43_bus_transaction.md R149, R151) -/
  scopeLow : s.scopeOpen = true → s.csLevel = .low
  /-- no counter passes its bound (10_state.md R45) -/
  readyBound : s.readyCnt ≤ s.params.nReady
  respBound : s.respCnt ≤ s.params.nResp
  vpBound : s.vpCnt ≤ s.params.nVp
  ocBound : s.ocCnt ≤ s.params.nOc

/-! ## The moves of `state` (44_init_fsm.md R184) -/

/-- The moves of R184's table, and staying. -/
def Stage.mayMove (a b : Stage) : Bool :=
  a == b ||
    match a, b with
    | .detached, .powerUp | .ready, .powerUp | .unusable, .powerUp => true
    | .powerUp, .idle | .powerUp, .unusable => true
    | .idle, .versionProbe | .idle, .unusable => true
    | .versionProbe, .crcEnable | .versionProbe, .unusable => true
    | .crcEnable, .opCondWait | .crcEnable, .unusable => true
    | .opCondWait, .capacityProbe | .opCondWait, .unusable => true
    | .capacityProbe, .ready | .capacityProbe, .unusable => true
    | _, _ => false

/-! ## Runs -/

/-- `n` steps, stopping at the first fault or refusal. -/
def runs : Nat → State → Out
  | 0, s => .next s
  | n + 1, s =>
    match step s with
    | .next t => runs n t
    | .fault f => .fault f
    | .refused r => .refused r

/-! ## The ends of an operation, as the statements write them -/

/-- After a result of an operation other than INIT: `busy` 0, `err_code` None, `rsp_ok` 1 (10_state.md R22, R38, R42). -/
def State.returned (s : State) (d : RspData) : State := { s with
  busy := false
  errCode := none
  micro := .idle
  op := .none
  cmd := none
  rsp := s.rsp ++ [⟨true, d, none, false⟩] }

/-- After an error of an operation other than INIT (60_exceptions.md R199): `state` is as it was. -/
def State.failed (s : State) (e : Err) : State := { s with
  busy := false
  errCode := some e
  micro := .idle
  op := .none
  cmd := none
  rsp := s.rsp ++ [⟨false, .none, some e, false⟩] }

/-- After INIT's abort (60_exceptions.md R196). -/
def State.aborted (s : State) (e : Err) : State := { s with
  state := .unusable
  busy := false
  failState := s.state
  errCode := some e
  owned := false
  micro := .idle
  op := .none
  cmd := none
  rsp := s.rsp ++ [⟨false, .none, some e, true⟩] }

/-- Nothing INIT alone writes has changed, nor the request port (10_state.md R21). -/
def State.keepsInit (s t : State) : Prop :=
  t.params = s.params ∧ t.state = s.state ∧ t.vpCnt = s.vpCnt ∧ t.ocCnt = s.ocCnt ∧ t.version = s.version
    ∧ t.capacity = s.capacity ∧ t.failState = s.failState ∧ t.owned = s.owned ∧ t.speedupReq = s.speedupReq
    ∧ t.host = s.host

/-! ## The registers the spec marks unset -/

/-- `s` with what `u` holds in the eight registers 10_state.md R36 marks unset at reset. -/
def State.withUnset (s u : State) : State := { s with
  crc := u.crc
  frame := u.frame
  status := u.status
  extra := u.extra
  shape := u.shape
  version := u.version
  capacity := u.capacity
  failState := u.failState }

/-! ## Answers and the events they make, as the statements write them -/

/-- An exchange that returned `b`. -/
def Answer.byteOf (b : Byte) : Answer := ⟨false, b⟩

/-- A call that succeeded with no byte. -/
def Answer.done : Answer := ⟨false, 0⟩

/-- The answers to attempts of `wait_ready` that found the card not ready: each a byte, and the answer to the delay that
follows it (43_bus_transaction.md R140). -/
def missAnswers (misses : List (Byte × Answer)) : List Answer :=
  misses.flatMap fun m => [Answer.byteOf m.1, m.2]

/-- Their events. -/
def missEvents (p : Params) (misses : List (Byte × Answer)) : List Event :=
  misses.flatMap fun m => [.xfer p.placeholder (some m.1), .delay p.tReadyUs]

/-- The exchanges that bring four extra bytes. -/
def Quad.answers (q : Quad) : List Answer := q.toList.map Answer.byteOf

/-- Their events. -/
def Quad.events (p : Params) (q : Quad) : List Event := q.toList.map fun b => .xfer p.placeholder (some b)

/-- The four extra bytes where the response has them (43_bus_transaction.md R144). -/
def echoOf (sh : Shape) (st : Byte) (q : Quad) : Option Quad := if readsExtra sh st then some q else none

/-- The answers to the exchanges that bring an echo, where there is one. -/
def echoAnswers : Option Quad → List Answer
  | some q => Quad.answers q
  | none => []

/-- Their events. -/
def echoEvents (p : Params) : Option Quad → List Event
  | some q => Quad.events p q
  | none => []

/-- The answers to an EXEC_CMD: `misses` before the card is ready, `w` to the write, `polls` sentinels before the status byte,
and the echo (43_bus_transaction.md R146). -/
def commandAnswers (misses : List (Byte × Answer)) (w : Answer) (polls : Nat) (st : Byte) (echo : Option Quad) :
    List Answer :=
  missAnswers misses ++ [Answer.byteOf 0xFF, w] ++ List.replicate polls (Answer.byteOf 0xFF) ++ [Answer.byteOf st]
    ++ echoAnswers echo

/-- Its events: `RW ; W[frame] ; P ; E` (43_bus_transaction.md R146). -/
def commandEvents (p : Params) (index : Index) (arg : Word) (misses : List (Byte × Answer)) (polls : Nat) (st : Byte)
    (echo : Option Quad) : List Event :=
  missEvents p misses ++ [.xfer p.placeholder (some 0xFF), .write (frameOf index arg).toList true]
    ++ List.replicate polls (.xfer p.placeholder (some 0xFF)) ++ [.xfer p.placeholder (some st)] ++ echoEvents p echo

/-- How a card answers one EXEC_CMD: the attempts of the ready-wait that find it not ready, each with the answer to the delay
after it; the answer to the frame write; how many polls return the sentinel; the status byte. -/
structure Reply where
  misses : List (Byte × Answer)
  write : Answer
  polls : Nat
  status : Byte
deriving DecidableEq, Repr

/-- The response comes within the bounds of 43_bus_transaction.md R140 and R143. -/
def Reply.arrives (r : Reply) (p : Params) : Prop :=
  (∀ m ∈ r.misses, m.1 ≠ 0xFF) ∧ r.misses.length < p.nReady ∧ r.write.fault = false ∧ r.polls < p.nResp ∧ r.status ≠ 0xFF

/-- It comes and reports no error. -/
def Reply.ok (r : Reply) (p : Params) : Prop := r.arrives p ∧ errorBits r.status = 0

/-- The answers it makes, with an echo where there is one. -/
def Reply.answers (r : Reply) (echo : Option Quad) : List Answer := commandAnswers r.misses r.write r.polls r.status echo

/-- The events of the EXEC_CMD it answers. -/
def Reply.events (p : Params) (index : Index) (arg : Word) (r : Reply) (echo : Option Quad) : List Event :=
  commandEvents p index arg r.misses r.polls r.status echo

/-- The answer `x` to the outstanding call raises `e` inside `wait_ready` or `exec_cmd`: a faulted exchange or frame write, the
last attempt of the ready-wait with a byte other than the sentinel, the last poll with the sentinel (43_bus_transaction.md R140,
R142, R143). -/
def State.raisedBy (s : State) (x : Answer) (e : Err) : Prop :=
  match e with
  | .busTransferFault => (s.micro = .readyXfer ∨ s.micro = .pollXfer ∨ ∃ k, s.micro = .extraXfer k) ∧ x.fault = true
  | .busWriteFault => s.micro = .frameWrite ∧ x.fault = true
  | .readyTimeout => s.micro = .readyXfer ∧ x.fault = false ∧ x.byte ≠ 0xFF ∧ s.readyCnt = s.params.nReady
  | .responseTimeout => s.micro = .pollXfer ∧ x.fault = false ∧ x.byte = 0xFF ∧ s.respCnt = s.params.nResp
  | .chipSelectFault | .commandRejected _ | .unexpectedVoltage | .checkPatternMismatch | .cardUnusable => False

/-- What an EXEC_CMD of shape `sh` has written when its response is complete, before it is validated (R142 to R144). -/
def State.received (s : State) (index : Index) (arg : Word) (sh : Shape) (misses : List (Byte × Answer)) (polls : Nat)
    (st : Byte) (q : Quad) (rest : List Answer) : State := { s with
  crc := frameCrc index arg
  frame := frameOf index arg
  status := st
  extra := if readsExtra sh st then q else s.extra
  shape := sh
  readyCnt := misses.length + 1
  respCnt := polls + 1
  errCode := none
  answers := rest
  trace := s.trace ++ commandEvents s.params index arg misses polls st (echoOf sh st q) }

/-- The answers to a command of INIT: under `PerCommand` with those to the scope around it (44_init_fsm.md R161). -/
def initAnswers (p : Params) (r : Reply) (echo : Option Quad) : List Answer :=
  match p.csScope with
  | .wholeHandshake => r.answers echo
  | .perCommand => [Answer.done] ++ r.answers echo ++ [Answer.done]

/-- Its events, for a card of version `v`. -/
def InitCmd.events (p : Params) (v : Option CardVersion) (c : InitCmd) (r : Reply) (echo : Option Quad) : List Event :=
  let command := Reply.events p (c.index p) (c.arg p v) r echo
  match p.csScope with
  | .wholeHandshake => command
  | .perCommand => [.cs .low true] ++ command ++ [.cs .high true]

/-- The answers to PowerUp and, under `WholeHandshake`, to the assertion of the handshake scope (R162, R163). -/
def powerUpAnswers (p : Params) : List Answer :=
  [Answer.done, Answer.done, Answer.done] ++ (match p.csScope with
    | .wholeHandshake => [Answer.done]
    | .perCommand => [])

/-- Their events. -/
def powerUpEvents (p : Params) : List Event :=
  [.delay p.tPowerupUs, .cs .high true, .write (List.replicate p.nDummy 0xFF) true] ++ (match p.csScope with
    | .wholeHandshake => [.cs .low true]
    | .perCommand => [])

/-- The answer to the restore of the handshake scope, where there is one. -/
def closeAnswers (p : Params) : List Answer :=
  match p.csScope with
  | .wholeHandshake => [Answer.done]
  | .perCommand => []

/-- Its event. -/
def closeEvents (p : Params) : List Event :=
  match p.csScope with
  | .wholeHandshake => [.cs .high true]
  | .perCommand => []

/-- The event of the speed-up, where the request brought one (R182). -/
def speedUpEvents (speedup : Bool) : List Event := if speedup then [.spd] else []

/-! ## Handshakes with what the card answers -/

/-- How a card answers the commands of a handshake: mismatched echoes before the last SEND_IF_COND, and iterations of OpCondWait
that find it idle before the last. -/
structure Card where
  goIdle : Reply
  mismatches : List (Reply × Quad)
  ifCond : Reply
  crcOn : Reply
  idles : List (Reply × Reply)
  appCmd : Reply
  opCond : Reply
deriving DecidableEq, Repr

/-- The card lets the handshake go on everywhere but at its last SEND_IF_COND, whose status is judged apart: every reply arrives,
no other status reports an error, the mismatches and the idle iterations stay below their bounds (44_init_fsm.md R164, R172,
R174, R176). -/
def Card.Passes (card : Card) (p : Params) : Prop :=
  card.goIdle.ok p ∧ card.ifCond.arrives p ∧ card.crcOn.ok p ∧ card.appCmd.ok p ∧ card.opCond.ok p
    ∧ card.opCond.status.getLsbD 0 = false
    ∧ card.mismatches.length < p.nVp
    ∧ (∀ m ∈ card.mismatches, m.1.ok p ∧ (m.2.voltage ≠ p.vhsCode ∨ m.2.pattern ≠ p.checkPattern))
    ∧ card.idles.length < p.nOc
    ∧ (∀ d ∈ card.idles, d.1.ok p ∧ d.2.ok p ∧ d.2.status.getLsbD 0 = true)

/-- The answers up to the last SD_SEND_OP_COND; `echo` is the echo of the last SEND_IF_COND, where it has one. The calls of a
scope, of PowerUp and of the delay of R176 are answered with `Answer.done`: they succeed and bring no byte. -/
def Card.answers (card : Card) (p : Params) (echo : Option Quad) : List Answer :=
  powerUpAnswers p ++ initAnswers p card.goIdle none
    ++ card.mismatches.flatMap (fun m => initAnswers p m.1 (some m.2))
    ++ initAnswers p card.ifCond echo ++ initAnswers p card.crcOn none
    ++ card.idles.flatMap (fun d => initAnswers p d.1 none ++ initAnswers p d.2 none ++ [Answer.done])
    ++ initAnswers p card.appCmd none ++ initAnswers p card.opCond none

/-- Their events, for a card that is found to be of version `v`. -/
def Card.events (card : Card) (p : Params) (v : CardVersion) (echo : Option Quad) : List Event :=
  powerUpEvents p ++ InitCmd.events p none .goIdle card.goIdle none
    ++ card.mismatches.flatMap (fun m => InitCmd.events p none .sendIfCond m.1 (some m.2))
    ++ InitCmd.events p none .sendIfCond card.ifCond echo ++ InitCmd.events p (some v) .crcOnOff card.crcOn none
    ++ card.idles.flatMap (fun d => InitCmd.events p (some v) .appCmd d.1 none
      ++ InitCmd.events p (some v) .sdSendOpCond d.2 none ++ [.delay p.tOcUs])
    ++ InitCmd.events p (some v) .appCmd card.appCmd none ++ InitCmd.events p (some v) .sdSendOpCond card.opCond none

/-! ## Bodies of WITH_CS_LOW with what the card answers to each element -/

/-- A WAIT_READY with the attempts that find the card not ready, or an EXEC_CMD with the card's reply and its echo. -/
inductive BodyStep where
  | ready (misses : List (Byte × Answer))
  | cmd (index : Index) (arg : Word) (shape : Shape) (reply : Reply) (echo : Quad)
deriving DecidableEq, Repr

/-- The element. -/
def BodyStep.op : BodyStep → BodyOp
  | .ready _ => .waitReady
  | .cmd index arg shape _ _ => .execCmd index arg shape.code

/-- It succeeds: the card is ready within the bound, and the reply reports no error. -/
def BodyStep.good (p : Params) : BodyStep → Prop
  | .ready misses => (∀ m ∈ misses, m.1 ≠ 0xFF) ∧ misses.length < p.nReady
  | .cmd _ _ _ r _ => r.ok p

/-- The answers to its calls. -/
def BodyStep.answers : BodyStep → List Answer
  | .ready misses => missAnswers misses ++ [Answer.byteOf 0xFF]
  | .cmd _ _ sh r q => r.answers (echoOf sh r.status q)

/-- Its events. -/
def BodyStep.events (p : Params) : BodyStep → List Event
  | .ready misses => missEvents p misses ++ [.xfer p.placeholder (some 0xFF)]
  | .cmd index arg sh r q => Reply.events p index arg r (echoOf sh r.status q)

/-- Its result. -/
def BodyStep.result : BodyStep → BodyResult
  | .ready _ => .ready
  | .cmd _ _ sh r q => .cmd ⟨r.status, echoOf sh r.status q⟩

/-! ## Events -/

/-- A chip-select event. -/
def Event.isCs : Event → Bool
  | .cs _ _ => true
  | _ => false

end Sys2Proof.Machine

namespace Sys2Proof

/-! ## Counts (43_bus_transaction.md R147, 44_init_fsm.md R186) -/

/-- The most calls of an EXEC_CMD that reads no extra bytes: 72 with the default parameters. -/
def Params.cmdCalls (p : Params) : Nat := p.nReady + (p.nReady - 1) + 1 + p.nResp

/-- The most capability calls and `SPD` events of one INIT under `WholeHandshake` (R186): 464,606 with the defaults. -/
def Params.wholeCalls (p : Params) : Nat :=
  3 + 2 + p.cmdCalls + p.nVp * (p.cmdCalls + 4) + p.cmdCalls + p.nOc * (p.cmdCalls + p.cmdCalls + 1) + (p.cmdCalls + 4) + 1

/-- EXEC_CMDs of one INIT, at most. -/
def Params.initCmds (p : Params) : Nat := 1 + p.nVp + 1 + 2 * p.nOc + 1

/-- The most capability calls and `SPD` events of one INIT (R186): under `PerCommand` two more for each EXEC_CMD and not the
two of the outer scope, 477,420 with the defaults. -/
def Params.initCalls (p : Params) : Nat :=
  match p.csScope with
  | .wholeHandshake => p.wholeCalls
  | .perCommand => p.wholeCalls + 2 * p.initCmds - 2

end Sys2Proof
end

