-- ==== Sys2Proof/Certificates/Slice0/Obligations.lean ====
section
/-! DEFINITION. The statements for the provers. A state in them is any state, so the environment's answers (`answers`) and the
parameters (`params`) are any. `CoreInv` is a premise only where a state that no run reaches would make a statement false; that
it holds at reset and that every step keeps it are statements of their own. -/

open Sys2Proof Sys2Proof.Machine

/-! ## Encodings -/

/-- Words written out from 30_encoding.md (R70, R73 to R79 and the frames of R80's table) decode to the rows they stand for. -/
def Obligations.SpecWordsDecode : Prop :=
  decode Params.default (.command [0x40, 0x00, 0x00, 0x00, 0x00, 0x95]) = .ok .goIdleState
    ∧ decode Params.default (.command [0x48, 0x00, 0x00, 0x01, 0xAA, 0x87]) = .ok (.sendIfCond 0x1 0xAA)
    ∧ decode Params.default (.command [0x7B, 0x00, 0x00, 0x00, 0x01, 0x83]) = .ok .crcOnOff
    ∧ decode Params.default (.command [0x77, 0x00, 0x00, 0x00, 0x00, 0x65]) = .ok .appCmd
    ∧ decode Params.default (.command [0x69, 0x00, 0x00, 0x00, 0x00, 0xE5]) = .ok (.sdSendOpCond false)
    ∧ decode Params.default (.command [0x69, 0x40, 0x00, 0x00, 0x00, 0x77]) = .ok (.sdSendOpCond true)
    ∧ decode Params.default (.command [0x7A, 0x00, 0x00, 0x00, 0x00, 0xFD]) = .ok .readOcr
    ∧ decode Params.default (.command [0x51, 0x00, 0x00, 0x00, 0x00, 0x55]) = .ok (.cmdN 17 0)
    ∧ decode Params.default (.response .r1 [0x01]) = .ok (.respR1 0x01)
    ∧ decode Params.default (.response .r3 [0x00, 0xC0, 0xFF, 0x80, 0x00]) = .ok (.respR3 0x00 0xC0FF8000)
    ∧ decode Params.default (.response .r7 [0x01, 0x00, 0x00, 0x01, 0xAA]) = .ok (.respR7 0x01 0x000001AA)
    ∧ decode Params.default (.request { Request.ofOp 0x2 with index := 8, arg := 0x1AA, len := 6 }) = .ok (.encode 8 0x1AA 6)
    ∧ decode Params.default (.request { Request.ofOp 0x9 with index := 58, shape := 1 }) = .ok (.execCmd 58 0 1)
    ∧ decode Params.default (.request { Request.ofOp 0xB with speedup := true }) = .ok (.init true)

/-- The codes the spec gives the states (10_state.md R20), the errors (60_exceptions.md R190) and the shapes (30_encoding.md
R71); and no two errors share one. -/
def Obligations.CodesAreThoseOfTheTables : Prop :=
  ([.detached, .powerUp, .idle, .versionProbe, .crcEnable, .opCondWait, .capacityProbe, .ready, .unusable].map Stage.code
      = [0x0, 0x1, 0x2, 0x3, 0x4, 0x5, 0x6, 0x7, 0x8])
    ∧ errCodeOf none = 0
    ∧ ([Err.chipSelectFault, .busWriteFault, .busTransferFault, .readyTimeout, .responseTimeout,
          .commandRejected .illegalCommand, .commandRejected .crcError, .commandRejected .eraseSequenceError,
          .commandRejected .addressError, .commandRejected .parameterError, .unexpectedVoltage, .checkPatternMismatch,
          .cardUnusable].map (fun e => errCodeOf (some e)) = [1, 2, 3, 4, 5, 6, 7, 8, 9, 10, 11, 12, 13])
    ∧ (∀ a b : Option Err, errCodeOf a = errCodeOf b → a = b)
    ∧ ([Shape.r1, .r3, .r7].map Shape.code = [0, 1, 2] ∧ [Shape.r1, .r3, .r7].map Shape.extraBytes = [0, 4, 4])

/-- Decoding an encoded well-formed instruction gives it back, for every row and every operand value. The six indices of
00_scope.md R8 must be pairwise different, as its defaults are: two named frames would share a word otherwise. -/
def Obligations.DecodeOfEncode : Prop :=
  ∀ (p : Params) (i : Instr), p.indicesDistinct = true → i.wf p = true → decode p (encode p i) = .ok i

/-- A command frame decodes exactly when it is not malformed (30_encoding.md R73, R84), and its row is well formed and encodes
back to the same six bytes. That the decoder refuses a malformed frame is the model's choice (log entry 27): the CORE itself
receives none. -/
def Obligations.FramesDecodeUnlessMalformed : Prop :=
  (∀ (p : Params) (bytes : List Byte), (∃ i, decode p (.command bytes) = .ok i) ↔
      ∃ f : Frame, bytes = f.toList ∧ f.b0.extractLsb' 6 2 = 0b01#2 ∧ f.b5.getLsbD 0 = true
        ∧ f.b5.extractLsb' 1 7 = crc7 [f.b0, f.b1, f.b2, f.b3, f.b4])
    ∧ (∀ (p : Params) (bytes : List Byte) (i : Instr), decode p (.command bytes) = .ok i →
        i.wf p = true ∧ encode p i = .command bytes)

/-- A response is a status byte other than 0xFF, and four bytes after it exactly when its shape is R3 or R7 and the status has
neither bit 2 nor bit 3 (30_encoding.md R77, R85, R89). That a truncated response is the row of the status byte alone is the
model's reading (log entry 17). -/
def Obligations.ResponsesDecodeByLength : Prop :=
  ∀ (p : Params) (sh : Shape) (st : Byte) (rest : List Byte),
    ((∃ i, decode p (.response sh (st :: rest)) = .ok i) ↔
        st ≠ 0xFF ∧ rest.length = if sh ≠ .r1 ∧ st.getLsbD 2 = false ∧ st.getLsbD 3 = false then 4 else 0)
      ∧ (st ≠ 0xFF → (sh = .r1 ∨ st.getLsbD 2 = true ∨ st.getLsbD 3 = true) →
          decode p (.response sh [st]) = .ok (.respR1 st))
      ∧ (st ≠ 0xFF → st.getLsbD 2 = false → st.getLsbD 3 = false → ∀ b0 b1 b2 b3 : Byte,
          decode p (.response .r3 [st, b0, b1, b2, b3]) = .ok (.respR3 st (b0 ++ b1 ++ b2 ++ b3))
            ∧ decode p (.response .r7 [st, b0, b1, b2, b3]) = .ok (.respR7 st (b0 ++ b1 ++ b2 ++ b3)))

/-- Which requests are let through: the conditions of 30_encoding.md R72, R86, R87 and 43_bus_transaction.md R149. That an
EXEC_CMD inside a body is refused for its shape as one outside is, is the model's reading of R86 (log entry 10). -/
def Obligations.RequestsDecodeWhenAccepted : Prop :=
  ∀ (p : Params) (r : Request), (∃ i, decode p (.request r) = .ok i) ↔
    (0x1 ≤ r.op ∧ r.op ≤ 0xB)
      ∧ (r.op = 0x3 → r.bytes.length = 6)
      ∧ (r.op = 0x4 ∨ r.op = 0x5 → r.bytes.length = 1)
      ∧ (r.op = 0x6 ∨ r.op = 0x7 → r.bytes.length = 4)
      ∧ (r.op = 0x9 → r.shape ≠ 3)
      ∧ (r.op = 0xA → ∀ e ∈ r.body, e.op = 0x8 ∨ (e.op = 0x9 ∧ e.shape ≠ 3))

/-- R87: a request with a reserved operation code is refused with IllegalRequest; R86: so is an EXEC_CMD with `req_shape` = 3,
the one operation that reads it. The request stands at the port of a CORE that is not busy. -/
def Obligations.ReservedCodesAreRefused : Prop :=
  ∀ (s : State) (r : Request) (rest : List HostInput), s.busy = false → s.host = .request r :: rest →
    (r.op = 0x0 ∨ 0xC ≤ r.op → step s = .fault .illegalRequest)
      ∧ (r.op = 0x9 → r.shape = 3 → step s = .fault .illegalRequest)

/-- A step runs the decoded instruction, at each of the three points where the machine fetches one: the request port, the frame
EXEC_CMD emits, the response it has received. A request leaves the port; nothing else is added around exec. Where an instruction
is fetched is the model's (log entries 4, 5). -/
def Obligations.StepRunsTheDecodedInstruction : Prop :=
  (∀ (s : State) (r : Request) (rest : List HostInput) (i : Instr), s.busy = false → s.host = .request r :: rest →
      decode s.params (.request r) = .ok i → step s = exec i { s with host := rest })
    ∧ (∀ (s : State) (index : Index) (arg : Word) (i : Instr), s.busy = true → s.micro = .sendFrame →
        s.cmd = some ⟨index, arg⟩ → decode s.params (.command (frameOf index arg).toList) = .ok i → step s = exec i s)
    ∧ (∀ (s : State) (i : Instr), s.busy = true → s.micro = .respond → readsExtra s.shape s.status = false →
        decode s.params (.response s.shape [s.status]) = .ok i → step s = exec i s)
    ∧ (∀ (s : State) (i : Instr), s.busy = true → s.micro = .respond → readsExtra s.shape s.status = true →
        decode s.params (.response s.shape (s.status :: s.extra.toList)) = .ok i → step s = exec i s)

/-! ## CRC7 -/

/-- R103: CRC7 returns `crc7` of its operand, of any length, with `err_code` None, and leaves it in `crc` (R102); everything
else is as it was. The empty input and every all-zero input give 0; the bytes 40 00 00 00 00 give 0x4A. -/
def Obligations.Crc7Result : Prop :=
  (∀ (bytes : List Byte) (s : State),
      exec (.crc7 bytes) s = .next { s.returned (.crc (crc7 bytes)) with crc := crc7 bytes })
    ∧ (∀ n : Nat, crc7 (List.replicate n 0x00) = 0)
    ∧ crc7 [0x40, 0x00, 0x00, 0x00, 0x00] = 0x4A

/-- R100: the generator of R101 is division by x^7 + x^3 + 1. With the bits of the bytes as coefficients over the field of two
elements, most significant first, `crc7` is the remainder of the message times x^7 (initial value 0, nothing reflected, nothing
added at the end); and the CRC of the ASCII digits 1 to 9 is 0x75. -/
def Obligations.Crc7IsThePolynomialRemainder : Prop :=
  (∀ ms : List Byte,
      let poly (bs : List Bool) : Polynomial (ZMod 2) :=
        bs.foldl (fun acc b => acc * Polynomial.X + (if b then 1 else 0)) 0
      (poly (ms.flatMap bitsOf) * Polynomial.X ^ 7) %ₘ (Polynomial.X ^ 7 + Polynomial.X ^ 3 + 1)
        = poly [(crc7 ms).getLsbD 6, (crc7 ms).getLsbD 5, (crc7 ms).getLsbD 4, (crc7 ms).getLsbD 3, (crc7 ms).getLsbD 2,
            (crc7 ms).getLsbD 1, (crc7 ms).getLsbD 0])
    ∧ crc7 [0x31, 0x32, 0x33, 0x34, 0x35, 0x36, 0x37, 0x38, 0x39] = 0x75

/-- The laws the spec derives from R101 (40_crc7.md R105, "These follow from rule R101 and are not stated by the source"):
linearity, the residue, the incremental form, and the table form with its first sixteen entries. -/
def Obligations.Crc7AlgebraicLaws : Prop :=
  (∀ as bs : List Byte, as.length = bs.length → crc7 (List.zipWith (· ^^^ ·) as bs) = crc7 as ^^^ crc7 bs)
    ∧ (∀ ms : List Byte, crcBits (crc7 ms) [(crc7 ms).getLsbD 6, (crc7 ms).getLsbD 5, (crc7 ms).getLsbD 4,
        (crc7 ms).getLsbD 3, (crc7 ms).getLsbD 2, (crc7 ms).getLsbD 1, (crc7 ms).getLsbD 0] = 0)
    ∧ (∀ (ms : List Byte) (b : Byte), crc7 (ms ++ [b]) = crcByte (crc7 ms) b)
    ∧ (∀ (ms : List Byte) (b : Byte), crc7 (ms ++ [b]) = crc7 [((crc7 ms).setWidth 8 <<< 1) ^^^ b])
    ∧ ([0x00, 0x01, 0x02, 0x03, 0x04, 0x05, 0x06, 0x07, 0x08, 0x09, 0x0A, 0x0B, 0x0C, 0x0D, 0x0E, 0x0F].map
          (fun b : Byte => crc7 [b])
        = [0x00, 0x09, 0x12, 0x1B, 0x24, 0x2D, 0x36, 0x3F, 0x48, 0x41, 0x5A, 0x53, 0x6C, 0x65, 0x7E, 0x77])

/-! ## The frame codec -/

/-- R110: a destination shorter than six bytes is the fault BufferTooShort; otherwise the frame is `0b01 ++ index`, the argument
most significant byte first, and the checksum byte, exactly six bytes, with `err_code` None. `crc` holds the checksum (R102).
Everything else is as it was. The last two clauses are the frames R110 gives for index 63 with argument 0xFFFFFFFF and for
index 0 with argument 0. -/
def Obligations.EncodeResult : Prop :=
  (∀ (index : Index) (arg : Word) (len : Nat) (s : State),
    (len < 6 → exec (.encode index arg len) s = .fault .bufferTooShort)
      ∧ (6 ≤ len →
          let b0 : Byte := 0b01#2 ++ index
          let c : Crc := crc7 [b0, arg.extractLsb' 24 8, arg.extractLsb' 16 8, arg.extractLsb' 8 8, arg.extractLsb' 0 8]
          let f : Frame :=
            ⟨b0, arg.extractLsb' 24 8, arg.extractLsb' 16 8, arg.extractLsb' 8 8, arg.extractLsb' 0 8, c ++ 1#1⟩
          exec (.encode index arg len) s = .next { s.returned (.frame f) with frame := f, crc := c }))
    ∧ (frameOf 63 0xFFFFFFFF).toList = [0x7F, 0xFF, 0xFF, 0xFF, 0xFF, 0x19]
    ∧ (frameOf 0 0).toList = [0x40, 0x00, 0x00, 0x00, 0x00, 0x95]

/-- R104: bits 7 to 1 of the checksum byte of every frame ENCODE produces are the CRC7 of bytes 0 to 4. Beside it: its prefix
and stop bit are the fixed ones (41_frame_codec.md R110), and another index or argument gives another frame (R111, which the
spec derives from R110). -/
def Obligations.EncodedFramesCarryTheirChecksum : Prop :=
  ∀ (index : Index) (arg : Word) (len : Nat) (s : State), 6 ≤ len →
    ∃ (t : State) (f : Frame), exec (.encode index arg len) s = .next t ∧ t.frame = f
      ∧ f.b5.extractLsb' 1 7 = crc7 [f.b0, f.b1, f.b2, f.b3, f.b4]
      ∧ f.b0.extractLsb' 6 2 = 0b01#2 ∧ f.b5.getLsbD 0 = true
      ∧ (∀ (index' : Index) (arg' : Word) (len' : Nat) (s' t' : State),
          exec (.encode index' arg' len') s' = .next t' → t'.frame = f → index' = index ∧ arg' = arg)

/-- R112: DECODE_CMD returns the low six bits of byte 0, bytes 1 to 4 most significant first, and the three checks, whatever
they say, with `err_code` None. `crc` holds the checksum of bytes 0 to 4 (R102); everything else is as it was. The last clause
is the checksum R112 gives for five bytes 0xFF. -/
def Obligations.DecodeCmdResult : Prop :=
  (∀ (b0 b1 b2 b3 b4 b5 : Byte) (s : State),
    exec (.decodeCmd [b0, b1, b2, b3, b4, b5]) s = .next {
      s.returned (.decoded (b0.extractLsb' 0 6) (b1 ++ b2 ++ b3 ++ b4) (b0.extractLsb' 6 2 == 0b01#2) (b5.getLsbD 0)
        (b5.extractLsb' 1 7 == crc7 [b0, b1, b2, b3, b4])) with crc := crc7 [b0, b1, b2, b3, b4] })
    ∧ crc7 [0xFF, 0xFF, 0xFF, 0xFF, 0xFF] = 0x11

/-- R113: for every index and argument, DECODE_CMD of what ENCODE has put into `frame` returns them, and all three checks hold. -/
def Obligations.DecodeCmdOfEncode : Prop :=
  ∀ (index : Index) (arg : Word) (s : State),
    ∃ (t u : State) (f : Frame), exec (.encode index arg 6) s = .next t ∧ t.frame = f
      ∧ exec (.decodeCmd f.toList) t = .next u
      ∧ u.rsp = t.rsp ++ [⟨true, .decoded index arg true true true, none, false⟩]

/-! ## The response parser -/

/-- R120, R121: STATUS_CHECK_ERROR is Ok exactly when bits 6 to 2 are clear; otherwise the error is CommandRejected of the kind
of the lowest set bit among them. `status` takes the operand; everything else is as it was. -/
def Obligations.StatusCheckErrorResult : Prop :=
  ∀ (st : Byte) (s : State),
    (st.extractLsb' 2 5 = 0 →
        exec (.statusCheckError [st]) s = .next { s.returned .none with status := st })
      ∧ (st.getLsbD 2 = true →
          exec (.statusCheckError [st]) s = .next { s.failed (.commandRejected .illegalCommand) with status := st })
      ∧ (st.extractLsb' 2 1 = 0 → st.getLsbD 3 = true →
          exec (.statusCheckError [st]) s = .next { s.failed (.commandRejected .crcError) with status := st })
      ∧ (st.extractLsb' 2 2 = 0 → st.getLsbD 4 = true →
          exec (.statusCheckError [st]) s = .next { s.failed (.commandRejected .eraseSequenceError) with status := st })
      ∧ (st.extractLsb' 2 3 = 0 → st.getLsbD 5 = true →
          exec (.statusCheckError [st]) s = .next { s.failed (.commandRejected .addressError) with status := st })
      ∧ (st.extractLsb' 2 4 = 0 → st.getLsbD 6 = true →
          exec (.statusCheckError [st]) s = .next { s.failed (.commandRejected .parameterError) with status := st })

/-- R122: STATUS_IS_TRUNCATED returns bit 2 or bit 3; `status` takes the operand. Of the values 0x00 to 0x7F it is true for
exactly 96, and bit 7 does not matter. -/
def Obligations.StatusIsTruncatedResult : Prop :=
  (∀ (st : Byte) (s : State), exec (.statusIsTruncated [st]) s =
      .next { s.returned (.bit (st.getLsbD 2 || st.getLsbD 3)) with status := st })
    ∧ ((List.range 128).filter fun n => isTruncated (BitVec.ofNat 8 n)).length = 96
    ∧ (∀ st : Byte, isTruncated st = isTruncated (st &&& 0x7F))

/-- R124, R125: CHECK_IF_ECHO is Ok exactly when the low nibble of byte 2 is the voltage code and byte 3 the pattern; a wrong
voltage is UnexpectedVoltage whatever the pattern, else a wrong pattern is CheckPatternMismatch. No register but `err_code`
takes a value; the operand's other bits are not read. -/
def Obligations.CheckIfEchoResult : Prop :=
  ∀ (e0 e1 e2 e3 pattern : Byte) (s : State),
    (e2.extractLsb' 0 4 = s.params.vhsCode → e3 = pattern →
        exec (.checkIfEcho [e0, e1, e2, e3] pattern) s = .next (s.returned .none))
      ∧ (e2.extractLsb' 0 4 ≠ s.params.vhsCode →
          exec (.checkIfEcho [e0, e1, e2, e3] pattern) s = .next (s.failed .unexpectedVoltage))
      ∧ (e2.extractLsb' 0 4 = s.params.vhsCode → e3 ≠ pattern →
          exec (.checkIfEcho [e0, e1, e2, e3] pattern) s = .next (s.failed .checkPatternMismatch))

/-- R126, R127: CAPACITY_FROM_OCR returns HighOrExtended when bit 6 of byte 0 is set and Standard when it is clear, whatever
the other bits; `capacity` and everything but `err_code` and the ports is as it was. -/
def Obligations.CapacityFromOcrResult : Prop :=
  ∀ (o0 o1 o2 o3 : Byte) (s : State),
    (o0.getLsbD 6 = true →
        exec (.capacityFromOcr [o0, o1, o2, o3]) s = .next (s.returned (.capacity .highOrExtended)))
      ∧ (o0.getLsbD 6 = false →
          exec (.capacityFromOcr [o0, o1, o2, o3]) s = .next (s.returned (.capacity .standard)))

/-! ## WAIT_READY and EXEC_CMD -/

/-- R140, R141: WAIT_READY runs, and succeeds when one of the first N_READY exchanges returns 0xFF and none before it faults;
with N_READY exchanges that return other bytes it is ReadyTimeout, and a faulted exchange is BusTransferFault. A delay lies
between two attempts and nowhere else; nothing but `ready_cnt`, `err_code` and the ports changes. `misses` are the attempts that
found the card not ready, each with the answer to the delay after it. -/
def Obligations.WaitReadyLaw : Prop :=
  ∀ (s : State) (misses : List (Byte × Answer)) (rest : List Answer), (∀ m ∈ misses, m.1 ≠ 0xFF) →
    misses.length < s.params.nReady →
    (s.answers = missAnswers misses ++ Answer.byteOf 0xFF :: rest →
        ∃ u, exec .waitReady s = .next u ∧ runs (2 * misses.length + 1) u = .next { s.returned .none with
          readyCnt := misses.length + 1
          answers := rest
          trace := s.trace ++ missEvents s.params misses ++ [.xfer s.params.placeholder (some 0xFF)] })
      ∧ (∀ b : Byte, b ≠ 0xFF → misses.length + 1 = s.params.nReady →
          s.answers = missAnswers misses ++ Answer.byteOf b :: rest →
          ∃ u, exec .waitReady s = .next u ∧ runs (2 * misses.length + 1) u = .next { s.failed .readyTimeout with
            readyCnt := s.params.nReady
            answers := rest
            trace := s.trace ++ missEvents s.params misses ++ [.xfer s.params.placeholder (some b)] })
      ∧ (∀ a : Answer, a.fault = true → s.answers = missAnswers misses ++ a :: rest →
          ∃ u, exec .waitReady s = .next u ∧ runs (2 * misses.length + 1) u = .next { s.failed .busTransferFault with
            readyCnt := misses.length + 1
            answers := rest
            trace := s.trace ++ missEvents s.params misses ++ [.xfer s.params.placeholder none] })

/-- R142 to R145: EXEC_CMD of every index, argument and shape whose card becomes ready and answers runs to its result. It waits
for the card, writes the frame ENCODE builds, polls, reads the four extra bytes exactly where the shape is R3 or R7 and the
status is not truncated, and only then reports the status byte's error, if it has one. Registers: `shape`, `ready_cnt`, `frame`,
`crc`, `resp_cnt`, `status`, `extra` and `err_code`; everything else is as it was. -/
def Obligations.ExecCmdCollectsTheResponse : Prop :=
  ∀ (s : State) (index : Index) (arg : Word) (sh : Shape) (misses : List (Byte × Answer)) (w : Answer) (polls : Nat)
    (st : Byte) (q : Quad) (rest : List Answer),
    (∀ m ∈ misses, m.1 ≠ 0xFF) → misses.length < s.params.nReady → w.fault = false → polls < s.params.nResp → st ≠ 0xFF →
    s.answers = commandAnswers misses w polls st (echoOf sh st q) ++ rest →
    ∃ u, exec (.execCmd index arg sh.code) s = .next u
      ∧ runs (2 * misses.length + polls + 5 + (if readsExtra sh st then 4 else 0)) u = .next
          (match statusError st with
            | none => (s.received index arg sh misses polls st q rest).returned (.cmd ⟨st, echoOf sh st q⟩)
            | some k => (s.received index arg sh misses polls st q rest).failed (.commandRejected k))

/-- 43_bus_transaction.md R146 (which the spec derives from R140 and R142 to R145): a standalone EXEC_CMD ends at the first
cause in time. Its clauses: the card never ready; a faulted ready exchange; a faulted write; N_RESP sentinels; a faulted poll
exchange; a faulted extra-byte exchange after `bs`. What was written before stays (60_exceptions.md R191), nothing is written
after. -/
def Obligations.ExecCmdStopsAtTheFirstFailure : Prop :=
  ∀ (s : State) (index : Index) (arg : Word) (sh : Shape) (misses : List (Byte × Answer)) (rest : List Answer),
    (∀ m ∈ misses, m.1 ≠ 0xFF) → misses.length < s.params.nReady → 1 ≤ s.params.nResp →
    let waited : State := { s with shape := sh, readyCnt := misses.length + 1, answers := rest }
    let sent : State := { waited with
      errCode := none, frame := frameOf index arg, crc := frameCrc index arg }
    let before : List Event := s.trace ++ missEvents s.params misses
    let ready : Event := Event.xfer s.params.placeholder (some 0xFF)
    let frame : List Byte := (frameOf index arg).toList
    (∀ b : Byte, b ≠ 0xFF → misses.length + 1 = s.params.nReady →
        s.answers = missAnswers misses ++ Answer.byteOf b :: rest →
        ∃ u, exec (.execCmd index arg sh.code) s = .next u ∧ runs (2 * misses.length + 1) u = .next
          ({ waited with trace := before ++ [Event.xfer s.params.placeholder (some b)] }.failed .readyTimeout))
      ∧ (∀ a : Answer, a.fault = true → s.answers = missAnswers misses ++ a :: rest →
          ∃ u, exec (.execCmd index arg sh.code) s = .next u ∧ runs (2 * misses.length + 1) u = .next
            ({ waited with trace := before ++ [Event.xfer s.params.placeholder none] }.failed .busTransferFault))
      ∧ (∀ w : Answer, w.fault = true → s.answers = missAnswers misses ++ Answer.byteOf 0xFF :: w :: rest →
          ∃ u, exec (.execCmd index arg sh.code) s = .next u ∧ runs (2 * misses.length + 3) u = .next
            ({ sent with trace := before ++ [ready, .write frame false] }.failed .busWriteFault))
      ∧ (∀ w : Answer, w.fault = false →
          s.answers = missAnswers misses ++ Answer.byteOf 0xFF :: w ::
            (List.replicate s.params.nResp (Answer.byteOf 0xFF) ++ rest) →
          ∃ u, exec (.execCmd index arg sh.code) s = .next u ∧ runs (2 * misses.length + 3 + s.params.nResp) u = .next
            ({ sent with
              respCnt := s.params.nResp
              trace := before ++ [ready, .write frame true] ++ List.replicate s.params.nResp ready }.failed
                .responseTimeout))
      ∧ (∀ (w a : Answer) (polls : Nat), w.fault = false → a.fault = true → polls < s.params.nResp →
          s.answers = missAnswers misses ++ Answer.byteOf 0xFF :: w ::
            (List.replicate polls (Answer.byteOf 0xFF) ++ a :: rest) →
          ∃ u, exec (.execCmd index arg sh.code) s = .next u ∧ runs (2 * misses.length + 4 + polls) u = .next
            ({ sent with
              respCnt := polls + 1
              trace := before ++ [ready, .write frame true] ++ List.replicate polls ready
                ++ [Event.xfer s.params.placeholder none] }.failed .busTransferFault))
      ∧ (∀ (w a : Answer) (polls : Nat) (st : Byte) (bs : List Byte), w.fault = false → a.fault = true →
          polls < s.params.nResp → st ≠ 0xFF → readsExtra sh st = true → bs.length < 4 →
          s.answers = missAnswers misses ++ Answer.byteOf 0xFF :: w ::
            (List.replicate polls (Answer.byteOf 0xFF) ++ Answer.byteOf st :: (bs.map Answer.byteOf ++ a :: rest)) →
          ∃ u, exec (.execCmd index arg sh.code) s = .next u
            ∧ runs (2 * misses.length + 5 + polls + bs.length) u = .next
              ({ sent with
                respCnt := polls + 1
                status := st
                extra := ⟨bs[0]?.getD s.extra.e0, bs[1]?.getD s.extra.e1, bs[2]?.getD s.extra.e2, s.extra.e3⟩
                trace := before ++ [ready, .write frame true] ++ List.replicate polls ready
                  ++ [Event.xfer s.params.placeholder (some st)]
                  ++ bs.map (fun b => Event.xfer s.params.placeholder (some b))
                  ++ [Event.xfer s.params.placeholder none] }.failed .busTransferFault))

/-! ## WITH_CS_LOW -/

/-- R149: WITH_CS_LOW over any body whose elements succeed runs to its end: `CS(L)`, the elements' events in order, `CS(H)`.
The results come in order when the restore succeeds; a restore that faults is ChipSelectFault, with `cs_level` Unknown. -/
def Obligations.WithCsLowRunsItsBody : Prop :=
  ∀ (s : State) (steps : List BodyStep) (a : Answer) (rest : List Answer), (∀ b ∈ steps, b.good s.params) →
    s.answers = [Answer.done] ++ steps.flatMap BodyStep.answers ++ [a] ++ rest →
    ∃ (u t : State) (n : Nat), exec (.withCsLow (steps.map BodyStep.op)) s = .next u ∧ runs n u = .next t
      ∧ t.trace = s.trace ++ [.cs .low true] ++ steps.flatMap (BodyStep.events s.params) ++ [.cs .high (!a.fault)]
      ∧ t.answers = rest ∧ t.busy = false ∧ t.scopeOpen = false ∧ s.keepsInit t
      ∧ (a.fault = false → t.csLevel = .high ∧ t.errCode = none
          ∧ t.rsp = s.rsp ++ [⟨true, .results (steps.map BodyStep.result), none, false⟩])
      ∧ (a.fault = true → t.csLevel = .unknown ∧ t.errCode = some .chipSelectFault
          ∧ t.rsp = s.rsp ++ [⟨false, .none, some .chipSelectFault, false⟩])

/-- R149: when the assertion faults, the scope is never entered: ChipSelectFault, `cs_level` Unknown, no body event and no
restore. -/
def Obligations.WithCsLowAssertionFault : Prop :=
  ∀ (s : State) (body : List BodyOp) (a : Answer) (rest : List Answer), body.all BodyOp.wf = true → a.fault = true →
    s.answers = a :: rest →
    ∃ u, exec (.withCsLow body) s = .next u ∧ step u = .next { s.failed .chipSelectFault with
      csLevel := .unknown, answers := rest, trace := s.trace ++ [.cs .low false] }

/-- R149, R150: the first element that ends in an error stops the body; the restore is attempted, and the body's error is
reported whatever the restore answers. First clause: a whole run, in which an EXEC_CMD's status byte reports an error after any
elements that succeed and before any others. Second: an answer that raises a timeout or a bus fault, at any call of any element.
Third: the restore itself, whatever error is in flight. -/
def Obligations.WithCsLowBodyErrorWins : Prop :=
  (∀ (s : State) (steps : List BodyStep) (index : Index) (arg : Word) (sh : Shape) (r : Reply) (q : Quad) (k : RejectKind)
      (more : List BodyOp) (a : Answer) (rest : List Answer), (∀ b ∈ steps, b.good s.params) → r.arrives s.params →
      statusError r.status = some k → more.all BodyOp.wf = true →
      s.answers = [Answer.done] ++ steps.flatMap BodyStep.answers ++ r.answers (echoOf sh r.status q) ++ [a] ++ rest →
      ∃ (u t : State) (n : Nat),
        exec (.withCsLow (steps.map BodyStep.op ++ .execCmd index arg sh.code :: more)) s = .next u ∧ runs n u = .next t
        ∧ t.trace = s.trace ++ [.cs .low true] ++ steps.flatMap (BodyStep.events s.params)
            ++ Reply.events s.params index arg r (echoOf sh r.status q) ++ [.cs .high (!a.fault)]
        ∧ t.answers = rest ∧ t.busy = false ∧ t.scopeOpen = false ∧ s.keepsInit t ∧ t.status = r.status
        ∧ t.csLevel = (if a.fault then .unknown else .high) ∧ t.errCode = some (.commandRejected k)
        ∧ t.rsp = s.rsp ++ [⟨false, .none, some (.commandRejected k), false⟩])
    ∧ (∀ (s : State) (body : List BodyElem) (results : List BodyResult) (e : Err) (call : Call) (x a : Answer)
        (rest : List Answer), s.busy = true → s.op = .withCsLow body results → s.raisedBy x e →
        pendingCall s = some call → s.answers = x :: a :: rest →
        runs 2 s = .next ({ s with
          csLevel := if a.fault then .unknown else .high
          scopeOpen := false
          answers := rest
          trace := s.trace ++ [call.event x, .cs .high (!a.fault)] }.failed e))
    ∧ (∀ (s : State) (body : List BodyElem) (results : List BodyResult) (e : Err) (a : Answer) (rest : List Answer),
        s.busy = true → s.op = .withCsLow body results → s.micro = .csHigh (some e) → s.answers = a :: rest →
        step s = .next ({ s with
          csLevel := if a.fault then .unknown else .high
          scopeOpen := false
          answers := rest
          trace := s.trace ++ [Event.cs .high (!a.fault)] }.failed e))

/-- 43_bus_transaction.md R151 (which the spec derives from R149 and R150): whatever the environment answers, once a WITH_CS_LOW
whose assertion succeeded has ended, its trace is `CS(L)`, events that set no chip-select, and one `CS(H)` attempt. The host
offers nothing more. -/
def Obligations.ScopeLaw : Prop :=
  ∀ (s u t : State) (body : List BodyOp) (a : Answer) (rest : List Answer) (n : Nat), s.host = [] → a.fault = false →
    s.answers = a :: rest → exec (.withCsLow body) s = .next u → runs n u = .next t → t.busy = false →
    ∃ (inner : List Event) (ok : Bool), t.trace = s.trace ++ [.cs .low true] ++ inner ++ [.cs .high ok]
      ∧ ∀ e ∈ inner, e.isCs = false

/-- 43_bus_transaction.md R148 (derived there from R142 and R149): a standalone WAIT_READY or EXEC_CMD drives no chip-select. -/
def Obligations.StandaloneCommandsLeaveChipSelect : Prop :=
  ∀ (s t : State), CoreInv s → s.busy = true → (s.op = .waitReady ∨ s.op = .execCmd) → step s = .next t →
    t.csLevel = s.csLevel ∧ t.scopeOpen = s.scopeOpen
      ∧ ∀ new : List Event, t.trace = s.trace ++ new → ∀ e ∈ new, e.isCs = false

/-! ## Command frames and responses as EXEC_CMD runs them -/

/-- The seven frame rows complete from every state: the frame of the row stands in `frame` (its bytes by R73 to R75), its
checksum in `crc`, `err_code` is None, and the write is issued (R142); the index and argument are the row's (R80 to R83), and
everything else is as it was. That the row's meaning is this part of R142 is the model's (log entry 5). -/
def Obligations.CommandRowsSendTheirFrames : Prop :=
  ∀ (s : State),
    let sent (index : Index) (arg : Word) : State :=
      let b0 : Byte := 0b01#2 ++ index
      let c : Crc := crc7 [b0, arg.extractLsb' 24 8, arg.extractLsb' 16 8, arg.extractLsb' 8 8, arg.extractLsb' 0 8]
      { s with
        frame :=
          ⟨b0, arg.extractLsb' 24 8, arg.extractLsb' 16 8, arg.extractLsb' 8 8, arg.extractLsb' 0 8, c ++ 1#1⟩
        crc := c
        errCode := none
        busy := true
        cmd := some ⟨index, arg⟩
        micro := .frameWrite }
    (∀ (index : Index) (arg : Word), exec (.cmdN index arg) s = .next (sent index arg))
      ∧ exec .goIdleState s = .next (sent s.params.idxGoIdle 0)
      ∧ (∀ (vhs : BitVec 4) (pattern : Byte),
          exec (.sendIfCond vhs pattern) s = .next (sent s.params.idxSendIfCond (0#20 ++ vhs ++ pattern)))
      ∧ exec .crcOnOff s = .next (sent s.params.idxCrcOnOff s.params.crcOnArg)
      ∧ exec .appCmd s = .next (sent s.params.idxAppCmd s.params.appCmdArg)
      ∧ exec (.sdSendOpCond false) s = .next (sent s.params.idxSdSendOpCond 0)
      ∧ exec (.sdSendOpCond true) s = .next (sent s.params.idxSdSendOpCond (BitVec.twoPow 32 s.params.hcsBit))
      ∧ exec .readOcr s = .next (sent s.params.idxReadOcr s.params.readOcrArg)

/-- With the default parameters the frames are those of the last column of R80's table. -/
def Obligations.DefaultCommandFrames : Prop :=
  (encode Params.default .goIdleState = .command [0x40, 0x00, 0x00, 0x00, 0x00, 0x95])
    ∧ encode Params.default (.sendIfCond 0x1 0xAA) = .command [0x48, 0x00, 0x00, 0x01, 0xAA, 0x87]
    ∧ encode Params.default .crcOnOff = .command [0x7B, 0x00, 0x00, 0x00, 0x01, 0x83]
    ∧ encode Params.default .appCmd = .command [0x77, 0x00, 0x00, 0x00, 0x00, 0x65]
    ∧ encode Params.default (.sdSendOpCond false) = .command [0x69, 0x00, 0x00, 0x00, 0x00, 0xE5]
    ∧ encode Params.default (.sdSendOpCond true) = .command [0x69, 0x40, 0x00, 0x00, 0x00, 0x77]
    ∧ encode Params.default .readOcr = .command [0x7A, 0x00, 0x00, 0x00, 0x00, 0xFD]

/-- The frame that stands in `frame` is what is written, in one call, `frame[0]` first (R53, R57, R142); a successful write
starts the poll, a faulted one is BusWriteFault: the end of a standalone EXEC_CMD, and in a scope of WITH_CS_LOW the restore. -/
def Obligations.FrameWriteIsAnswered : Prop :=
  ∀ (s : State) (f : Frame) (a : Answer) (rest : List Answer), s.busy = true → s.micro = .frameWrite → s.frame = f →
    s.answers = a :: rest → 1 ≤ s.params.nResp →
    let event : Event := .write [f.b0, f.b1, f.b2, f.b3, f.b4, f.b5] (!a.fault)
    let done : State := { s with answers := rest, trace := s.trace ++ [event] }
    pendingCall s = some (.write [f.b0, f.b1, f.b2, f.b3, f.b4, f.b5])
      ∧ (a.fault = false → step s = .next { done with respCnt := 1, micro := .pollXfer })
      ∧ (a.fault = true → s.op = .execCmd → step s = .next (done.failed .busWriteFault))
      ∧ (a.fault = true → ∀ (body : List BodyElem) (results : List BodyResult), s.op = .withCsLow body results →
          step s = .next { done with micro := .csHigh (some .busWriteFault) })

/-- The three response rows complete from every state of a standalone EXEC_CMD and of the last element of a WITH_CS_LOW: the
status byte goes to `status`, the echo to `extra` unless the status is truncated (R143, R144), and then the status byte's error,
if it has one, is raised (R145). The byte 0xFF is no response, and the poll goes on (R143). That the row's meaning is this part
of R142 is the model's (log entry 5). -/
def Obligations.ResponseRowsAreReceived : Prop :=
  ∀ (s : State) (st : Byte) (word : Word),
    let q : Quad := ⟨word.extractLsb' 24 8, word.extractLsb' 16 8, word.extractLsb' 8 8, word.extractLsb' 0 8⟩
    let short : State := { s with status := st }
    let long : State := { s with status := st, extra := q }
    (s.op = .execCmd → st ≠ 0xFF → errorBits st = 0 →
        exec (.respR1 st) s = .next (short.returned (.cmd ⟨st, none⟩))
          ∧ exec (.respR3 st word) s = .next (long.returned (.cmd ⟨st, some q⟩))
          ∧ exec (.respR7 st word) s = .next (long.returned (.cmd ⟨st, some q⟩)))
      ∧ (s.op = .execCmd → st ≠ 0xFF → ∀ k : RejectKind, statusError st = some k →
          exec (.respR1 st) s = .next (short.failed (.commandRejected k))
            ∧ (isTruncated st = true → exec (.respR3 st word) s = .next (short.failed (.commandRejected k))
                ∧ exec (.respR7 st word) s = .next (short.failed (.commandRejected k)))
            ∧ (isTruncated st = false → exec (.respR3 st word) s = .next (long.failed (.commandRejected k))
                ∧ exec (.respR7 st word) s = .next (long.failed (.commandRejected k))))
      ∧ (∀ results : List BodyResult, s.op = .withCsLow [] results → st ≠ 0xFF → errorBits st = 0 →
          exec (.respR1 st) s = .next { short with
              errCode := none, op := .withCsLow [] (results ++ [.cmd ⟨st, none⟩]), micro := .csHigh none }
            ∧ exec (.respR3 st word) s = .next { long with
              errCode := none, op := .withCsLow [] (results ++ [.cmd ⟨st, some q⟩]), micro := .csHigh none }
            ∧ exec (.respR7 st word) s = .next { long with
              errCode := none, op := .withCsLow [] (results ++ [.cmd ⟨st, some q⟩]), micro := .csHigh none })
      ∧ (s.respCnt ≠ s.params.nResp → st = 0xFF →
          exec (.respR1 st) s = .next { s with respCnt := s.respCnt + 1, micro := .pollXfer }
            ∧ exec (.respR3 st word) s = .next { s with respCnt := s.respCnt + 1, micro := .pollXfer }
            ∧ exec (.respR7 st word) s = .next { s with respCnt := s.respCnt + 1, micro := .pollXfer })

/-! ## INIT -/

/-- R36: every register after reset, and every register on INIT entry: whatever the state, INIT starts from these values and
nothing but `cs_level` and the ports carries over (R160, R222). The first call is PowerUp's delay. R36 gives the values of all
but `crc`, `frame`, `status`, `extra`, `shape` and `fail_state`, which it marks unset; the values of these six are the model's
(log entry 9), and UnsetRegistersAreNeverRead says that they show nowhere. -/
def Obligations.ResetAndInitEntryValues : Prop :=
  (State.reset.state = .detached ∧ State.reset.busy = false
      ∧ State.reset.readyCnt = 0 ∧ State.reset.respCnt = 0 ∧ State.reset.vpCnt = 0 ∧ State.reset.ocCnt = 0
      ∧ State.reset.version = none ∧ State.reset.capacity = none ∧ State.reset.errCode = none
      ∧ State.reset.csLevel = .unknown ∧ State.reset.scopeOpen = false
      ∧ State.reset.owned = false ∧ State.reset.speedupReq = false
      ∧ State.reset.crc = 0 ∧ State.reset.frame = ⟨0, 0, 0, 0, 0, 0⟩ ∧ State.reset.status = 0
      ∧ State.reset.extra = ⟨0, 0, 0, 0⟩ ∧ State.reset.shape = .r1 ∧ State.reset.failState = .detached)
    ∧ (∀ (s : State) (speedup : Bool), exec (.init speedup) s = .next {
        params := s.params
        state := .powerUp
        busy := true
        crc := 0
        frame := ⟨0, 0, 0, 0, 0, 0⟩
        status := 0
        extra := ⟨0, 0, 0, 0⟩
        shape := .r1
        readyCnt := 0
        respCnt := 0
        vpCnt := 0
        ocCnt := 0
        version := none
        capacity := none
        errCode := none
        failState := .detached
        csLevel := s.csLevel
        scopeOpen := false
        owned := true
        speedupReq := speedup
        micro := .powerUpDelay
        op := .init .goIdle
        cmd := none
        host := s.host
        answers := s.answers
        trace := s.trace
        rsp := s.rsp })

/-- R220: reset gives every register its value after reset and issues no call; the parameters, what the host and the environment
hold and what has been recorded stay (log entry 7; the values of the registers R36 marks unset: log entry 9). It is taken while the CORE is not busy. -/
def Obligations.ResetInput : Prop :=
  ∀ (s : State) (rest : List HostInput), s.busy = false → s.host = .reset :: rest →
    step s = .next { State.reset with
      params := s.params, host := rest, answers := s.answers, trace := s.trace, rsp := s.rsp }

/-- R162: PowerUp is the delay, chip-select high, the N_DUMMY bytes of 0xFF; a fault of the second or third call goes to
Unusable with `fail_state` PowerUp. Then (R163, which the spec derives from R161 and R162) INIT goes to Idle, by `CS(L)` first
under WholeHandshake; a fault of that assertion goes to Unusable with `fail_state` PowerUp too, and nothing is restored. -/
def Obligations.PowerUpSequence : Prop :=
  ∀ (s : State) (speedup : Bool) (d a b c : Answer) (rest : List Answer), s.answers = d :: a :: b :: c :: rest →
    let dummy : List Byte := List.replicate s.params.nDummy 0xFF
    let before : List Event := s.trace ++ [.delay s.params.tPowerupUs]
    ∃ u, exec (.init speedup) s = .next u ∧ u.state = .powerUp
      ∧ (a.fault = true → runs 2 u = .next { u.aborted .chipSelectFault with
          csLevel := .unknown, answers := b :: c :: rest, trace := before ++ [Event.cs .high false] })
      ∧ (a.fault = false → b.fault = true → runs 3 u = .next { u.aborted .busWriteFault with
          csLevel := .high, answers := c :: rest, trace := before ++ [Event.cs .high true, .write dummy false] })
      ∧ (a.fault = false → b.fault = false → s.params.csScope = .perCommand → ∃ t, runs 3 u = .next t ∧ t.state = .idle
          ∧ t.csLevel = .high ∧ t.micro = .csLow ∧ t.op = .init .goIdle ∧ t.answers = c :: rest
          ∧ t.trace = before ++ [Event.cs .high true, .write dummy true])
      ∧ (a.fault = false → b.fault = false → s.params.csScope = .wholeHandshake →
          (∃ t, runs 3 u = .next t ∧ t.state = .powerUp ∧ t.micro = .csLow)
            ∧ (c.fault = false → ∃ t, runs 4 u = .next t ∧ t.state = .idle ∧ t.csLevel = .low ∧ t.scopeOpen = true
                ∧ t.micro = .readyXfer ∧ t.op = .init .goIdle ∧ t.answers = rest
                ∧ t.trace = before ++ [Event.cs .high true, .write dummy true, .cs .low true])
            ∧ (c.fault = true → runs 4 u = .next { u.aborted .chipSelectFault with
                csLevel := .unknown, answers := rest
                trace := before ++ [Event.cs .high true, .write dummy true, .cs .low false] }))

/-- The frame INIT sends for each of its commands has the index and the argument of the command table (30_encoding.md R80 to R83),
with the host-capacity bit set exactly for V2, whatever iteration it is; and it is sent in its own stage with its own shape. The
indices and the arguments but GO_IDLE_STATE's 0 are the parameters R80 makes them (93_implementation_defined.md G3 to G7; log
entries 1, 16), the arguments of APP_CMD and READ_OCR too, whose default R83 gives as 0. With the defaults SEND_IF_COND's argument is 0x000001AA and
SD_SEND_OP_COND's 0x40000000 for V2 and 0 for V1. -/
def Obligations.InitSendsTheCommandTable : Prop :=
  (∀ (s : State) (c : InitCmd), CoreInv s → s.busy = true → s.op = .init c → s.micro = .sendFrame →
      ∃ t, step s = .next t ∧ t.micro = .frameWrite ∧ t.state = c.stage ∧ t.shape = c.shape
        ∧ t.frame = frameOf (c.index s.params) (c.arg s.params s.version))
    ∧ InitCmd.arg Params.default none .sendIfCond = 0x000001AA
    ∧ InitCmd.arg Params.default (some .v2) .sdSendOpCond = 0x40000000
    ∧ InitCmd.arg Params.default (some .v1) .sdSendOpCond = 0

/-- R169: a SEND_IF_COND answered with bit 2 of the status set classifies the card as V1 at once, whatever else the status says,
on any attempt: no extra byte is read, no further attempt made, and CrcEnable is entered. Under PerCommand the command's scope
closes first, and a fault of that restore changes nothing of it: that is deduced from R149, R185 and R194 (log entry 21), and
that `err_code` is None after the caught error is deduced too (log entry 18). -/
def Obligations.IllegalCommandMeansVersionOne : Prop :=
  ∀ (s : State) (st : Byte) (a : Answer) (rest : List Answer), CoreInv s → s.busy = true → s.op = .init .sendIfCond →
    s.micro = .respond → s.status = st → st.getLsbD 2 = true → s.answers = a :: rest →
    ∃ (n : Nat) (t : State), runs n s = .next t ∧ t.state = .crcEnable ∧ t.version = some .v1 ∧ t.op = .init .crcOnOff
      ∧ t.vpCnt = s.vpCnt ∧ t.extra = s.extra ∧ t.status = st ∧ t.errCode = none
      ∧ (s.params.csScope = .wholeHandshake → t.trace = s.trace ∧ t.answers = a :: rest)
      ∧ (s.params.csScope = .perCommand → t.trace = s.trace ++ [.cs .high (!a.fault)] ∧ t.answers = rest)

/-- R170, R171, R172: after a SEND_IF_COND that reports no error the echo decides. A match is V2, and CrcEnable is entered; a
mismatch with attempts left is the next attempt, which counts; a mismatch on attempt N_VP is CardUnusable: `fail_state` is
VersionProbe. Neither echo error leaves INIT. `a` answers the restore of the scope that closes, where one does; one that faults is
ScopeFaultsEndInit's. That `err_code` is None after a caught mismatch is deduced from the pseudocode (log entry 18). -/
def Obligations.EchoDecidesTheVersion : Prop :=
  ∀ (s : State) (st : Byte) (q : Quad) (a : Answer) (rest : List Answer), CoreInv s → s.busy = true →
    s.op = .init .sendIfCond → s.micro = .respond → s.status = st → errorBits st = 0 → s.extra = q →
    a.fault = false → s.answers = a :: rest →
    (q.voltage = s.params.vhsCode → q.pattern = s.params.checkPattern →
        ∃ (n : Nat) (t : State), runs n s = .next t ∧ t.state = .crcEnable ∧ t.version = some .v2
          ∧ t.op = .init .crcOnOff ∧ t.vpCnt = s.vpCnt ∧ t.errCode = none)
      ∧ ((q.voltage ≠ s.params.vhsCode ∨ q.pattern ≠ s.params.checkPattern) → s.vpCnt < s.params.nVp →
          ∃ (n : Nat) (t : State), runs n s = .next t ∧ t.state = .versionProbe ∧ t.version = none
            ∧ t.op = .init .sendIfCond ∧ t.vpCnt = s.vpCnt + 1 ∧ t.errCode = none ∧ t.busy = true)
      ∧ ((q.voltage ≠ s.params.vhsCode ∨ q.pattern ≠ s.params.checkPattern) → s.vpCnt = s.params.nVp →
          runs 2 s = .next ({ s with
            vpCnt := s.params.nVp, csLevel := .high, scopeOpen := false, answers := rest
            trace := s.trace ++ [Event.cs .high true] }.aborted .cardUnusable))

/-- R176, R177, R179, R180: after a SD_SEND_OP_COND that reports no error the idle flag of its status decides. Set: the delay,
and then the next iteration, which counts, or after iteration N_OC CardUnusable with `fail_state` OpCondWait. Clear: CapacityProbe, where a
V1 card is Standard with no command and a V2 card gets READ_OCR. `a` answers the restore of the scope that closes after the
command (PerCommand), `d` the delay, `e` the restore that unwinds (WholeHandshake). -/
def Obligations.IdleFlagDecidesOpCondWait : Prop :=
  ∀ (s : State) (st : Byte) (a d e : Answer) (rest : List Answer), CoreInv s → s.busy = true →
    s.op = .init .sdSendOpCond → s.micro = .respond → s.status = st → errorBits st = 0 → a.fault = false →
    (match s.params.csScope with
      | .wholeHandshake => s.answers = d :: e :: rest
      | .perCommand => s.answers = a :: d :: e :: rest) →
    (st.getLsbD 0 = true → s.ocCnt < s.params.nOc →
        ∃ (n : Nat) (t : State) (new : List Event), runs n s = .next t ∧ t.state = .opCondWait ∧ t.op = .init .appCmd
          ∧ t.ocCnt = s.ocCnt + 1 ∧ t.version = s.version ∧ t.busy = true
          ∧ t.trace = s.trace ++ new ++ [.delay s.params.tOcUs] ∧ (∀ x ∈ new, x = Event.cs .high true))
      ∧ (st.getLsbD 0 = true → s.ocCnt = s.params.nOc →
          ∃ (n : Nat) (t : State) (before after : List Event), runs n s = .next t ∧ t.state = .unusable ∧ t.busy = false
            ∧ t.errCode = some .cardUnusable ∧ t.failState = .opCondWait ∧ t.ocCnt = s.params.nOc
            ∧ t.rsp = s.rsp ++ [⟨false, .none, some .cardUnusable, true⟩]
            ∧ t.trace = s.trace ++ before ++ .delay s.params.tOcUs :: after
            ∧ (∀ x ∈ before ++ after, x.isCs = true))
      ∧ (st.getLsbD 0 = false → s.version = some .v1 →
          ∃ (n : Nat) (t : State) (new : List Event), runs n s = .next t ∧ t.state = .capacityProbe
            ∧ t.capacity = some .standard ∧ (t.micro = .csHigh none ∨ t.micro = .finish)
            ∧ t.trace = s.trace ++ new ∧ (∀ x ∈ new, x = Event.cs .high true))
      ∧ (st.getLsbD 0 = false → s.version = some .v2 →
          ∃ (n : Nat) (t : State), runs n s = .next t ∧ t.state = .capacityProbe ∧ t.op = .init .readOcr
            ∧ t.ocCnt = s.ocCnt ∧ t.busy = true)

/-- R182: once the stages are done and the last scope is closed, the speed-up is the one event `SPD` when the request brought
one, and INIT returns the capacity class from Ready with the port released. -/
def Obligations.ReadyActions : Prop :=
  ∀ (s : State) (class_ : CapClass), s.busy = true → s.micro = .finish → s.capacity = some class_ →
    step s = .next { s with
      state := .ready
      owned := false
      busy := false
      micro := .idle
      op := .none
      cmd := none
      trace := s.trace ++ (if s.speedupReq then [.spd] else [])
      rsp := s.rsp ++ [⟨true, .capacity class_, none, true⟩] }

/-- R196: an error that leaves INIT's stages, its scope unwound by the restore (R150), aborts: `fail_state` takes the stage, `state` becomes
Unusable, `err_code` the error, the port is released and the error returned; the restore's own fault is discarded. No speed-up
and no further call follow. Under WholeHandshake the scope that unwinds is the handshake's; under PerCommand it is the
command's, and the error is one no stage catches. -/
def Obligations.AbortAfterUnwinding : Prop :=
  ∀ (s : State) (c : InitCmd) (e : Err) (a : Answer) (rest : List Answer), s.busy = true → s.op = .init c →
    s.micro = .csHigh (some e) → s.answers = a :: rest →
    (s.params.csScope = .perCommand → ¬ (c = .sendIfCond ∧ e = .commandRejected .illegalCommand)) →
    step s = .next ({ s with
      csLevel := if a.fault then .unknown else .high
      scopeOpen := false
      answers := rest
      trace := s.trace ++ [Event.cs .high (!a.fault)] }.aborted e)

/-- Every error an EXEC_CMD of INIT ends in is fatal in its stage but the IllegalCommand of SEND_IF_COND (R164, R173, R174, R178,
R181): the scope is restored and INIT ends in Unusable with the stage in `fail_state`. First clause: a status byte that reports
an error. Second: ReadyTimeout, ResponseTimeout, a faulted exchange, a faulted frame write. The ChipSelectFault of a scope is
ScopeFaultsEndInit's. -/
def Obligations.OtherCommandErrorsAreFatal : Prop :=
  ∀ (s : State) (c : InitCmd), CoreInv s → s.busy = true → s.op = .init c →
    (∀ (st : Byte) (k : RejectKind) (a : Answer) (rest : List Answer), s.micro = .respond → s.status = st →
        statusError st = some k → ¬ (c = .sendIfCond ∧ k = .illegalCommand) → s.answers = a :: rest →
        ∃ t, runs 2 s = .next t ∧ t.state = .unusable ∧ t.failState = c.stage ∧ t.busy = false
          ∧ t.errCode = some (.commandRejected k) ∧ t.trace = s.trace ++ [.cs .high (!a.fault)]
          ∧ t.rsp = s.rsp ++ [⟨false, .none, some (.commandRejected k), true⟩])
      ∧ (∀ (e : Err) (x a : Answer) (rest : List Answer), s.raisedBy x e → s.answers = x :: a :: rest →
          ∃ (call : Call) (t : State), pendingCall s = some call ∧ runs 2 s = .next t ∧ t.state = .unusable
            ∧ t.failState = c.stage ∧ t.busy = false ∧ t.errCode = some e
            ∧ t.trace = s.trace ++ [call.event x, .cs .high (!a.fault)]
            ∧ t.rsp = s.rsp ++ [⟨false, .none, some e, true⟩])

/-- INIT of a V1 card completes (R160 to R182, R187): any number of mismatched echoes below N_VP, then IllegalCommand, any
number of idle iterations below N_OC, then ready. Before each command the card may be not ready, and its status may come late,
within N_READY and N_RESP. Result Standard from Ready; the trace is exactly the handshake's. `fail_state` is as INIT entry left
it: unset by R36, its value there the model's (log entry 9). -/
def Obligations.InitCompletesForVersionOne : Prop :=
  ∀ (s : State) (speedup : Bool) (card : Card) (rest : List Answer), s.params.wf = true → card.Passes s.params →
    card.ifCond.status.getLsbD 2 = true →
    s.answers = card.answers s.params none ++ closeAnswers s.params ++ rest →
    ∃ (u t : State) (n : Nat), exec (.init speedup) s = .next u ∧ runs n u = .next t
      ∧ t.state = .ready ∧ t.version = some .v1 ∧ t.capacity = some .standard ∧ t.errCode = none
      ∧ t.failState = State.reset.failState
      ∧ t.vpCnt = card.mismatches.length + 1 ∧ t.ocCnt = card.idles.length + 1
      ∧ t.busy = false ∧ t.owned = false ∧ t.scopeOpen = false ∧ t.csLevel = .high
      ∧ t.params = s.params ∧ t.host = s.host ∧ t.answers = rest
      ∧ t.rsp = s.rsp ++ [⟨true, .capacity .standard, none, true⟩]
      ∧ t.trace = s.trace ++ card.events s.params .v1 none ++ closeEvents s.params ++ speedUpEvents speedup

/-- INIT of a V2 card completes (R160 to R182, R187): any number of mismatched echoes below N_VP, then the matching echo, any
number of idle iterations below N_OC, then ready, then the OCR. Before each command the card may be not ready, and its status may
come late, within N_READY and N_RESP. The class is that of bit 6 of the OCR's first byte. `fail_state` is as INIT entry left
it: unset by R36, its value there the model's (log entry 9). -/
def Obligations.InitCompletesForVersionTwo : Prop :=
  ∀ (s : State) (speedup : Bool) (card : Card) (echo ocr : Quad) (r : Reply) (rest : List Answer), s.params.wf = true →
    card.Passes s.params → card.ifCond.ok s.params → echo.voltage = s.params.vhsCode →
    echo.pattern = s.params.checkPattern → r.ok s.params →
    s.answers = card.answers s.params (some echo) ++ initAnswers s.params r (some ocr) ++ closeAnswers s.params ++ rest →
    let class_ : CapClass := if ocr.e0.getLsbD 6 then .highOrExtended else .standard
    ∃ (u t : State) (n : Nat), exec (.init speedup) s = .next u ∧ runs n u = .next t
      ∧ t.state = .ready ∧ t.version = some .v2 ∧ t.capacity = some class_ ∧ t.errCode = none
      ∧ t.failState = State.reset.failState
      ∧ t.vpCnt = card.mismatches.length + 1 ∧ t.ocCnt = card.idles.length + 1
      ∧ t.busy = false ∧ t.owned = false ∧ t.scopeOpen = false ∧ t.csLevel = .high
      ∧ t.params = s.params ∧ t.host = s.host ∧ t.answers = rest
      ∧ t.rsp = s.rsp ++ [⟨true, .capacity class_, none, true⟩]
      ∧ t.trace = s.trace ++ card.events s.params .v2 (some echo)
          ++ InitCmd.events s.params (some .v2) .readOcr r (some ocr) ++ closeEvents s.params ++ speedUpEvents speedup

/-- 44_init_fsm.md R186 (which the spec derives from R147 and R162 to R182): every INIT ends, whatever the environment answers,
within the bound R186 adds up for the parameters. The environment answers that many calls; the host offers nothing more. -/
def Obligations.InitTerminates : Prop :=
  ∀ (s u : State) (speedup : Bool), s.params.wf = true → s.host = [] → exec (.init speedup) s = .next u →
    s.params.initCalls ≤ s.answers.length →
    ∃ (n : Nat) (t : State) (new : List Event), runs n u = .next t ∧ t.busy = false
      ∧ (t.state = .ready ∨ t.state = .unusable) ∧ t.trace = s.trace ++ new ∧ new.length ≤ s.params.initCalls

/-- 44_init_fsm.md R184 (which the spec derives from R161 to R183): `state` moves only as the transition table says. A reset
is no transition of the table. -/
def Obligations.TransitionTable : Prop :=
  ∀ (s t : State), CoreInv s → step s = .next t → (s.busy = false → s.host.head? ≠ some .reset) →
    s.state.mayMove t.state = true

/-- In OpCondWait, between the response to APP_CMD and the SD_SEND_OP_COND frame lie only that command's own ready-wait and,
under PerCommand, the chip-select calls of the two scopes (70_reset_and_hazards.md R229, 43_bus_transaction.md R148): from a
successful APP_CMD response on, the next write there is, is that frame. The host offers nothing more. -/
def Obligations.AppCommandAdjacency : Prop :=
  ∀ (s t : State) (st : Byte) (n : Nat) (before after : List Event) (bytes : List Byte) (ok : Bool), CoreInv s →
    s.busy = true → s.op = .init .appCmd → s.micro = .respond → s.status = st → errorBits st = 0 → s.host = [] →
    runs n s = .next t → t.trace = s.trace ++ before ++ .write bytes ok :: after →
    (∀ e ∈ before, ∀ (bs : List Byte) (b : Bool), e ≠ .write bs b) →
    bytes = (frameOf s.params.idxSdSendOpCond
        (if s.version = some .v2 then BitVec.twoPow 32 s.params.hcsBit else 0)).toList
      ∧ ∀ e ∈ before, (∃ b, e = .xfer s.params.placeholder b) ∨ e = .delay s.params.tReadyUs
          ∨ (s.params.csScope = .perCommand ∧ e.isCs = true)

/-! ## The whole machine -/

/-- The invariant holds after reset. The values of the model's own fields rest on log entry 30. -/
def Obligations.InvariantAtReset : Prop := CoreInv State.reset

/-- Every step from a state with the invariant gives a state with it: counters within their bounds, chip-select low inside a
scope, the port owned exactly during INIT, `state` the stage of the running command, its operands those of the command table,
and the classification registers set where a stage reads them. -/
def Obligations.StepKeepsTheInvariant : Prop :=
  ∀ (s t : State), CoreInv s → step s = .next t → CoreInv t

/-- R193: the CORE stops with BufferTooShort exactly on an ENCODE whose destination is shorter than six bytes, and with
IllegalRequest exactly on a request it refuses: a reserved operation code, the reserved shape code, a wrong operand length, a
body element that is neither WAIT_READY nor EXEC_CMD. It stops nowhere else: not while busy, not on a read of `version` or
`capacity` while `Unset`, and nothing is unmodelled. That the reserved shape code inside a body element is a cause too is the
model's reading (log entry 10). -/
def Obligations.OnlyTheTwoProgrammerFaults : Prop :=
  (∀ (s : State) (f : Fault), CoreInv s →
      (step s = .fault f ↔ s.busy = false ∧ ∃ (r : Request) (rest : List HostInput), s.host = .request r :: rest
        ∧ ((f = .bufferTooShort ∧ r.op = 0x2 ∧ r.len < 6)
          ∨ (f = .illegalRequest ∧
              (r.op = 0x0 ∨ 0xC ≤ r.op
                ∨ (r.op = 0x9 ∧ r.shape = 3)
                ∨ (r.op = 0x3 ∧ r.bytes.length ≠ 6)
                ∨ ((r.op = 0x4 ∨ r.op = 0x5) ∧ r.bytes.length ≠ 1)
                ∨ ((r.op = 0x6 ∨ r.op = 0x7) ∧ r.bytes.length ≠ 4)
                ∨ (r.op = 0xA ∧ ∃ e ∈ r.body, (e.op ≠ 0x8 ∧ e.op ≠ 0x9) ∨ (e.op = 0x9 ∧ e.shape = 3)))))))
    ∧ (∀ (s : State) (r : Refusal), step s ≠ .refused r)

/-- Every step that ends an operation puts one result on the response port and clears `busy`, and no other step does either
(10_state.md R22, R42). The result carries `err_code`; it releases the port exactly when the operation is INIT, which ends in
Ready or in Unusable with the stage in `fail_state`, and never with an echo error (60_exceptions.md R192, R196, R197). -/
def Obligations.OneResultPerOperation : Prop :=
  ∀ (s t : State), CoreInv s → step s = .next t →
    (t.rsp = s.rsp ∧ (s.busy = true → t.busy = true))
      ∨ ∃ r : Response, t.rsp = s.rsp ++ [r] ∧ t.busy = false ∧ r.err = t.errCode ∧ (r.ok = true ↔ r.err = none)
          ∧ (r.ok = false → r.data = .none)
          ∧ (r.release = true ↔ ∃ c, s.op = .init c)
          ∧ (r.release = true → t.owned = false ∧ r.err ≠ some .unexpectedVoltage ∧ r.err ≠ some .checkPatternMismatch
              ∧ (r.ok = true → t.state = .ready ∧ ∃ class_, t.capacity = some class_ ∧ r.data = .capacity class_)
              ∧ (r.ok = false → t.state = .unusable ∧ t.failState = s.state))

/-- R21: only INIT (and reset) writes `state`; no other operation touches it or the other registers INIT alone writes. -/
def Obligations.OnlyInitWritesTheHandshakeRegisters : Prop :=
  ∀ (s t : State), CoreInv s → step s = .next t → (∀ c, s.op ≠ .init c) →
    (s.busy = false → s.host.head? ≠ some .reset ∧ ∀ r : Request, s.host.head? = some (.request r) → r.op ≠ 0xB) →
    t.state = s.state ∧ t.vpCnt = s.vpCnt ∧ t.ocCnt = s.ocCnt ∧ t.version = s.version ∧ t.capacity = s.capacity
      ∧ t.failState = s.failState ∧ t.owned = s.owned ∧ t.speedupReq = s.speedupReq

/-- R13: one event for each call, in issue order, and R40: each call is answered before the next is issued. A step records
nothing and takes no answer, or it takes the answer to the one outstanding call and records that call with it, or it is the
speed-up. -/
def Obligations.OneEventPerCall : Prop :=
  ∀ (s t : State), step s = .next t →
    (t.trace = s.trace ∧ t.answers = s.answers)
      ∨ (∃ (call : Call) (a : Answer), s.busy = true ∧ pendingCall s = some call ∧ s.answers = a :: t.answers
          ∧ t.trace = s.trace ++ [match call with
            | .xfer out => .xfer out (if a.fault then none else some a.byte)
            | .write bytes => .write bytes (!a.fault)
            | .setCs level => .cs level (!a.fault)
            | .delay us => .delay us])
      ∨ (s.busy = true ∧ s.micro = .finish ∧ s.speedupReq = true ∧ t.trace = s.trace ++ [.spd] ∧ t.answers = s.answers)

/-- R228: a call that is never answered is waited for, for ever, with nothing changed. -/
def Obligations.UnansweredCallWaits : Prop :=
  ∀ (s : State) (call : Call) (n : Nat), s.busy = true → pendingCall s = some call → s.answers = [] →
    runs n s = .next s

/-- R231: while the CORE is busy the request port is not looked at: what the host offers is kept as it is, and changes nothing
else of the step. So no operation can be cancelled. -/
def Obligations.RequestsAreHeldWhileBusy : Prop :=
  ∀ (s : State) (offered : List HostInput), s.busy = true →
    step { s with host := offered } = (match step s with
      | .next t => .next { t with host := offered }
      | .fault f => .fault f
      | .refused r => .refused r)

/-- No step writes a parameter (10_state.md R43: "no operation writes them"). -/
def Obligations.ParametersAreConstant : Prop :=
  ∀ (s t : State), step s = .next t → t.params = s.params

/-- Everything the CORE writes on the bus is PowerUp's dummy bytes, with chip-select high, or a frame that is not malformed
(30_encoding.md R84: "The CORE never produces a malformed frame"; 44_init_fsm.md R162; 70_reset_and_hazards.md R230). -/
def Obligations.EveryWriteIsWellFormed : Prop :=
  ∀ (s t : State) (bytes : List Byte) (ok : Bool), CoreInv s → step s = .next t →
    t.trace = s.trace ++ [.write bytes ok] →
    (bytes = List.replicate s.params.nDummy 0xFF ∧ s.state = .powerUp ∧ s.csLevel = .high)
      ∨ ∃ f : Frame, bytes = f.toList ∧ f.b0.extractLsb' 6 2 = 0b01#2 ∧ f.b5.getLsbD 0 = true
          ∧ f.b5.extractLsb' 1 7 = crc7 [f.b0, f.b1, f.b2, f.b3, f.b4]

/-- R226: a frame is written only after a ready-wait has seen the sentinel, with nothing in between. Said as an invariant of
its own: wherever a frame is about to be written, the last event of the trace is an exchange that returned 0xFF. That it holds at
reset rests on the model's reset values of its own fields (log entry 30). -/
def Obligations.FramesFollowTheSentinel : Prop :=
  let inv (s : State) : Prop := CoreInv s ∧ (s.micro = .sendFrame ∨ s.micro = .frameWrite →
    s.trace.getLast? = some (.xfer s.params.placeholder (some 0xFF)))
  inv State.reset ∧ ∀ s t : State, inv s → step s = .next t → inv t

/-- A `SetCS` of a scope of INIT that faults is ChipSelectFault and ends INIT at once, where no other error is in flight: with
nothing restored after a failed assertion, and with `cs_level` Unknown. Under WholeHandshake the assertion fails in PowerUp and
the restore in CapacityProbe (44_init_fsm.md R184, its last sentence); under PerCommand either is the error of the command in its
stage, which is deduced from R149 and R185 (log entry 21). -/
def Obligations.ScopeFaultsEndInit : Prop :=
  ∀ (s : State) (c : InitCmd) (a : Answer) (rest : List Answer), CoreInv s → s.busy = true → s.op = .init c →
    a.fault = true → s.answers = a :: rest →
    let stage (whole : Stage) : Stage := match s.params.csScope with
      | .wholeHandshake => whole
      | .perCommand => c.stage
    (s.micro = .csLow → s.state = stage .powerUp ∧ step s = .next ({ s with
        csLevel := .unknown, answers := rest, trace := s.trace ++ [Event.cs .low false] }.aborted .chipSelectFault))
      ∧ (s.micro = .csHigh none → s.state = stage .capacityProbe ∧ step s = .next ({ s with
        csLevel := .unknown, scopeOpen := false, answers := rest
        trace := s.trace ++ [Event.cs .high false] }.aborted .chipSelectFault))

/-- "No rule of this spec reads an unset register on any path it defines" (10_state.md R37): from a CORE that is not busy, what
the eight registers hold that R36 marks unset after reset shows nowhere. Two states that differ in them alone stop alike, and run
through the same calls, answers, results and values of every other register, for ever. So the values that log entry 9 names for
six of them can be told from no others. -/
def Obligations.UnsetRegistersAreNeverRead : Prop :=
  ∀ (s u : State) (n : Nat), s.busy = false →
    match runs n s, runs n (s.withUnset u) with
    | .next t, .next t' => t' = t.withUnset t'
    | .fault f, .fault f' => f = f'
    | _, _ => False
end

