-- ==== Sys2Proof/Laws/Crc7.lean ====
section
/-! SUPPORT. The small lemmas of the CRC-7 loop. -/

namespace Sys2Proof.Machine

@[simp] theorem crcBits_nil (c : Crc) : crcBits c [] = c := rfl

@[simp] theorem crcBits_cons (c : Crc) (b : Bool) (bs : List Bool) : crcBits c (b :: bs) = crcBits (crcBit c b) bs := rfl

theorem crcBits_append (c : Crc) (as bs : List Bool) : crcBits c (as ++ bs) = crcBits (crcBits c as) bs :=
  List.foldl_append

@[simp] theorem crcFrom_nil (c : Crc) : crcFrom c [] = c := rfl

@[simp] theorem crcFrom_cons (c : Crc) (m : Byte) (ms : List Byte) : crcFrom c (m :: ms) = crcFrom (crcByte c m) ms := rfl

theorem crcFrom_append (c : Crc) (as bs : List Byte) : crcFrom c (as ++ bs) = crcFrom (crcFrom c as) bs :=
  List.foldl_append

/-- The byte loop is the bit loop over all the bits. -/
theorem crcFrom_eq_bits (c : Crc) (ms : List Byte) : crcFrom c ms = crcBits c (ms.flatMap bitsOf) := by
  induction ms generalizing c with
  | nil => rfl
  | cons m ms ih => rw [crcFrom_cons, List.flatMap_cons, crcBits_append, ih]; rfl

/-- One turn of the inner loop is linear. -/
theorem crcBit_xor (c d : Crc) (a b : Bool) : crcBit (c ^^^ d) (a ^^ b) = crcBit c a ^^^ crcBit d b := by
  have e : (c ^^^ d) <<< 1 = (c <<< 1) ^^^ (d <<< 1) := BitVec.shiftLeft_xor_distrib c d 1
  have lc : ∀ x y z : Crc, x ^^^ (y ^^^ z) = y ^^^ (x ^^^ z) := fun x y z => by
    rw [← BitVec.xor_assoc, BitVec.xor_comm x y, BitVec.xor_assoc]
  have cancel : ∀ x y : Crc, x ^^^ (x ^^^ y) = y := fun x y => by rw [← BitVec.xor_assoc]; simp
  simp only [crcBit, BitVec.getLsbD_xor, e]
  cases c.getLsbD 6 <;> cases d.getLsbD 6 <;> cases a <;> cases b <;>
    simp [BitVec.xor_comm, lc, cancel]

end Sys2Proof.Machine
end

