-- ==== Sys2Proof/Laws/Operands.lean ====
section
/-! SUPPORT. What a read of a classification register and the operand forms of Machine/Operands.lean give: byte order and its inverse, the
fields of an assembled frame, the shape codes, the arguments of the command table, and the status tests. -/

namespace Sys2Proof

open Machine

/-! ## Reads of the classification registers -/

@[simp] theorem Machine.readClass_some {α : Type} (x : α) (use : α → Out) : readClass (some x) use = use x := rfl

@[simp] theorem Machine.readClass_none {α : Type} (use : α → Out) : readClass none use = .fault .readWhileUnset := rfl

/-- A read after which the machine goes on found a value. -/
theorem Machine.readClass_next {α : Type} {r : Option α} {use : α → Out} {t : State} (h : readClass r use = .next t) :
    ∃ x, r = some x ∧ use x = .next t := by
  cases r
  · cases h
  · exact ⟨_, rfl, h⟩

/-! ## Byte order -/

@[simp] theorem bytesBe32_be32 (q : Quad) : bytesBe32 (be32 q) = q := by
  obtain ⟨a, b, c, d⟩ := q
  simp only [bytesBe32, be32, Quad.mk.injEq]
  refine ⟨?_, ?_, ?_, ?_⟩ <;> apply BitVec.eq_of_getLsbD_eq <;> intro i hi <;>
    (interval_cases i <;> simp only [BitVec.getLsbD_extractLsb', BitVec.getLsbD_append] <;> rfl)

@[simp] theorem be32_bytesBe32 (x : Word) : be32 (bytesBe32 x) = x := by
  apply BitVec.eq_of_getLsbD_eq
  intro i hi
  interval_cases i <;> simp only [be32, bytesBe32, BitVec.getLsbD_append, BitVec.getLsbD_extractLsb'] <;> rfl

theorem bytesBe32_injective {x y : Word} (h : bytesBe32 x = bytesBe32 y) : x = y := by
  rw [← be32_bytesBe32 x, h, be32_bytesBe32]

@[simp] theorem Quad.toList_length (q : Quad) : q.toList.length = 4 := rfl

@[simp] theorem Quad.toList_inj {q r : Quad} : q.toList = r.toList ↔ q = r := by
  cases q; cases r; simp [Quad.toList]

/-! ## Frames -/

@[simp] theorem Frame.toList_length (f : Frame) : f.toList.length = 6 := rfl

@[simp] theorem Frame.toList_inj {f g : Frame} : f.toList = g.toList ↔ f = g := by
  cases f; cases g; simp [Frame.toList]

@[simp] theorem frameOfBytes_toList (f : Frame) : frameOfBytes f.toList = some f := rfl

theorem frameOfBytes_eq_some {bytes : List Byte} {f : Frame} : frameOfBytes bytes = some f ↔ bytes = f.toList := by
  constructor
  · intro h
    unfold frameOfBytes at h
    split at h
    · cases h; rfl
    · cases h
  · rintro rfl; rfl

@[simp] theorem frameOf_index (i : Index) (a : Word) : (frameOf i a).index = i := by
  apply BitVec.eq_of_getLsbD_eq
  intro k hk
  interval_cases k <;>
    simp only [Frame.index, frameOf, frameByte0, BitVec.getLsbD_append, BitVec.getLsbD_extractLsb'] <;> rfl

@[simp] theorem frameOf_arg (i : Index) (a : Word) : (frameOf i a).arg = a := be32_bytesBe32 a

@[simp] theorem frameOf_prefixOk (i : Index) (a : Word) : (frameOf i a).prefixOk = true := by
  simp only [Frame.prefixOk, beq_iff_eq]
  apply BitVec.eq_of_getLsbD_eq
  intro k hk
  interval_cases k <;>
    simp only [frameOf, frameByte0, BitVec.getLsbD_append, BitVec.getLsbD_extractLsb'] <;> rfl

@[simp] theorem frameOf_stopOk (i : Index) (a : Word) : (frameOf i a).stopOk = true := by
  simp only [Frame.stopOk, frameOf, frameByte5, BitVec.getLsbD_append]; rfl

@[simp] theorem frameOf_covered (i : Index) (a : Word) : crc7 (frameOf i a).covered = frameCrc i a := rfl

@[simp] theorem frameByte5_crc (c : Crc) : (frameByte5 c).extractLsb' 1 7 = c := by
  apply BitVec.eq_of_getLsbD_eq
  intro k hk
  interval_cases k <;> simp only [frameByte5, BitVec.getLsbD_append, BitVec.getLsbD_extractLsb'] <;> rfl

@[simp] theorem frameOf_crcOk (i : Index) (a : Word) : (frameOf i a).crcOk = true := by
  simp only [Frame.crcOk, frameOf_covered, beq_iff_eq]
  exact frameByte5_crc _

theorem frameOf_injective {i j : Index} {a b : Word} (h : frameOf i a = frameOf j b) : i = j ∧ a = b :=
  ⟨by rw [← frameOf_index i a, h, frameOf_index], by rw [← frameOf_arg i a, h, frameOf_arg]⟩

/-- A frame that passes the three checks is the one ENCODE builds from its index and argument. -/
theorem frameOf_of_wellFormed {f : Frame} (h1 : f.prefixOk = true) (h2 : f.stopOk = true) (h3 : f.crcOk = true) :
    frameOf f.index f.arg = f := by
  have hb : frameByte0 f.index = f.b0 := by
    simp only [Frame.prefixOk, beq_iff_eq] at h1
    have h6 : f.b0.getLsbD 6 = true := by
      have := congrArg (fun x => BitVec.getLsbD x 0) h1
      rw [BitVec.getLsbD_extractLsb'] at this
      exact this
    have h7 : f.b0.getLsbD 7 = false := by
      have := congrArg (fun x => BitVec.getLsbD x 1) h1
      rw [BitVec.getLsbD_extractLsb'] at this
      exact this
    apply BitVec.eq_of_getLsbD_eq
    intro k hk
    interval_cases k <;>
      simp only [frameByte0, Frame.index, BitVec.getLsbD_append, BitVec.getLsbD_extractLsb', h6, h7] <;> rfl
  have ha : bytesBe32 f.arg = ⟨f.b1, f.b2, f.b3, f.b4⟩ := bytesBe32_be32 _
  have hc : frameCrc f.index f.arg = crc7 f.covered := by
    unfold frameCrc
    rw [hb, ha]; rfl
  have h5 : frameByte5 (crc7 f.covered) = f.b5 := by
    simp only [Frame.crcOk, beq_iff_eq] at h3
    rw [← h3]
    simp only [Frame.stopOk] at h2
    apply BitVec.eq_of_getLsbD_eq
    intro k hk
    interval_cases k <;>
      simp only [frameByte5, BitVec.getLsbD_append, BitVec.getLsbD_extractLsb', h2] <;> rfl
  unfold frameOf
  rw [hb, ha, hc, h5]

/-! ## Shapes -/

@[simp] theorem shapeOfCode_code (sh : Shape) : shapeOfCode sh.code = some sh := by cases sh <;> rfl

theorem shapeOfCode_isSome {c : BitVec 2} : (shapeOfCode c).isSome = true ↔ c ≠ 3 := by
  revert c; decide

theorem readsExtra_iff {sh : Shape} {st : Byte} :
    readsExtra sh st = true ↔ sh ≠ .r1 ∧ st.getLsbD 2 = false ∧ st.getLsbD 3 = false := by
  cases sh <;> simp [readsExtra, Shape.extraBytes, isTruncated, illegalCmdFlag, crcErrFlag]

/-! ## The arguments of the command table -/

theorem ifCondArg_eq (v : BitVec 4) (q : Byte) : ifCondArg v q = 0#20 ++ v ++ q := by
  apply BitVec.eq_of_getLsbD_eq
  intro k hk
  have hv : ∀ j, 4 ≤ j → v.getLsbD j = false := fun j h => BitVec.getLsbD_of_ge v j h
  by_cases h : 12 ≤ k
  · have h8 : v.getLsbD (k - 8) = false := hv _ (by omega)
    simp only [ifCondArg, BitVec.getLsbD_append, BitVec.getLsbD_setWidth, h8]
    interval_cases k <;> rfl
  · have : k < 12 := by omega
    interval_cases k <;> simp only [ifCondArg, BitVec.getLsbD_append, BitVec.getLsbD_setWidth] <;> rfl

/-- An argument whose upper twenty bits are zero is SEND_IF_COND's of its own two fields. -/
theorem ifCondArg_fields {a : Word} (h : a.extractLsb' 12 20 = 0) :
    ifCondArg (a.extractLsb' 8 4) (a.extractLsb' 0 8) = a := by
  have h' : ∀ j, j < 20 → a.getLsbD (12 + j) = false := by
    intro j hj
    have := congrArg (fun x => BitVec.getLsbD x j) h
    simpa [hj] using this
  apply BitVec.eq_of_getLsbD_eq
  intro k hk
  have h12 : 12 ≤ k → a.getLsbD k = false := fun hle => by
    have := h' (k - 12) (by omega)
    rwa [show 12 + (k - 12) = k by omega] at this
  rw [ifCondArg_eq]
  by_cases hle : 12 ≤ k
  · rw [h12 hle]
    interval_cases k <;> simp only [BitVec.getLsbD_append, BitVec.getLsbD_extractLsb'] <;> rfl
  · have : k < 12 := by omega
    interval_cases k <;> simp only [BitVec.getLsbD_append, BitVec.getLsbD_extractLsb'] <;> rfl

@[simp] theorem ifCondArg_upper (v : BitVec 4) (q : Byte) : (ifCondArg v q).extractLsb' 12 20 = 0 := by
  rw [ifCondArg_eq]
  apply BitVec.eq_of_getLsbD_eq
  intro k hk
  interval_cases k <;> simp only [BitVec.getLsbD_append, BitVec.getLsbD_extractLsb'] <;> rfl

@[simp] theorem ifCondArg_vhs (v : BitVec 4) (q : Byte) : (ifCondArg v q).extractLsb' 8 4 = v := by
  apply BitVec.eq_of_getLsbD_eq
  intro k hk
  interval_cases k <;>
    simp only [ifCondArg, BitVec.getLsbD_append, BitVec.getLsbD_setWidth, BitVec.getLsbD_extractLsb'] <;> rfl

@[simp] theorem ifCondArg_pattern (v : BitVec 4) (q : Byte) : (ifCondArg v q).extractLsb' 0 8 = q := by
  apply BitVec.eq_of_getLsbD_eq
  intro k hk
  interval_cases k <;>
    simp only [ifCondArg, BitVec.getLsbD_append, BitVec.getLsbD_setWidth, BitVec.getLsbD_extractLsb'] <;> rfl

theorem opCondArg_eq (p : Params) (h : Bool) : opCondArg p h = if h then BitVec.twoPow 32 p.hcsBit else 0 := by
  cases h <;> simp [opCondArg, BitVec.twoPow]

theorem opCondArg_ne (p : Params) : opCondArg p false ≠ opCondArg p true := by
  intro h
  have := congrArg (fun x => BitVec.getLsbD x p.hcsBit) h
  simp [opCondArg, p.hcsBit.isLt] at this

namespace Machine

/-! ## Status tests -/

theorem statusError_eq_none {st : Byte} : statusError st = none ↔ errorBits st = 0 := by
  revert st; decide

/-- A status that reports no error is not truncated. -/
theorem not_truncated_of_no_error {st : Byte} (h : statusError st = none) : isTruncated st = false := by
  revert st; decide

theorem statusError_illegal {st : Byte} : statusError st = some .illegalCommand ↔ st.getLsbD 2 = true := by
  revert st; decide

theorem readsExtra_of_no_error {sh : Shape} {st : Byte} (h : statusError st = none) : readsExtra sh st = true ↔ sh ≠ .r1 := by
  cases sh <;> simp [readsExtra, Shape.extraBytes, not_truncated_of_no_error h]

end Machine

end Sys2Proof
end

