-- ==== Sys2Proof/Laws/State.lean ====
section
/-! SUPPORT. Every field after every named update of Machine/Ops.lean, each true by unfolding. -/

namespace Sys2Proof.Machine

variable (s : State)

/-! The record of a call. -/

@[simp] theorem logEvent_params (e : Event) : (logEvent e s).params = s.params := rfl
@[simp] theorem logEvent_state (e : Event) : (logEvent e s).state = s.state := rfl
@[simp] theorem logEvent_busy (e : Event) : (logEvent e s).busy = s.busy := rfl
@[simp] theorem logEvent_crc (e : Event) : (logEvent e s).crc = s.crc := rfl
@[simp] theorem logEvent_frame (e : Event) : (logEvent e s).frame = s.frame := rfl
@[simp] theorem logEvent_status (e : Event) : (logEvent e s).status = s.status := rfl
@[simp] theorem logEvent_extra (e : Event) : (logEvent e s).extra = s.extra := rfl
@[simp] theorem logEvent_shape (e : Event) : (logEvent e s).shape = s.shape := rfl
@[simp] theorem logEvent_readyCnt (e : Event) : (logEvent e s).readyCnt = s.readyCnt := rfl
@[simp] theorem logEvent_respCnt (e : Event) : (logEvent e s).respCnt = s.respCnt := rfl
@[simp] theorem logEvent_vpCnt (e : Event) : (logEvent e s).vpCnt = s.vpCnt := rfl
@[simp] theorem logEvent_ocCnt (e : Event) : (logEvent e s).ocCnt = s.ocCnt := rfl
@[simp] theorem logEvent_version (e : Event) : (logEvent e s).version = s.version := rfl
@[simp] theorem logEvent_capacity (e : Event) : (logEvent e s).capacity = s.capacity := rfl
@[simp] theorem logEvent_errCode (e : Event) : (logEvent e s).errCode = s.errCode := rfl
@[simp] theorem logEvent_failState (e : Event) : (logEvent e s).failState = s.failState := rfl
@[simp] theorem logEvent_csLevel (e : Event) : (logEvent e s).csLevel = s.csLevel := rfl
@[simp] theorem logEvent_scopeOpen (e : Event) : (logEvent e s).scopeOpen = s.scopeOpen := rfl
@[simp] theorem logEvent_owned (e : Event) : (logEvent e s).owned = s.owned := rfl
@[simp] theorem logEvent_speedupReq (e : Event) : (logEvent e s).speedupReq = s.speedupReq := rfl
@[simp] theorem logEvent_micro (e : Event) : (logEvent e s).micro = s.micro := rfl
@[simp] theorem logEvent_op (e : Event) : (logEvent e s).op = s.op := rfl
@[simp] theorem logEvent_cmd (e : Event) : (logEvent e s).cmd = s.cmd := rfl
@[simp] theorem logEvent_host (e : Event) : (logEvent e s).host = s.host := rfl
@[simp] theorem logEvent_answers (e : Event) : (logEvent e s).answers = s.answers := rfl
@[simp] theorem logEvent_trace (e : Event) : (logEvent e s).trace = s.trace ++ [e] := rfl
@[simp] theorem logEvent_rsp (e : Event) : (logEvent e s).rsp = s.rsp := rfl

/-! The end of an operation. -/

@[simp] theorem endOp_params : (endOp s).params = s.params := rfl
@[simp] theorem endOp_state : (endOp s).state = s.state := rfl
@[simp] theorem endOp_busy : (endOp s).busy = false := rfl
@[simp] theorem endOp_crc : (endOp s).crc = s.crc := rfl
@[simp] theorem endOp_frame : (endOp s).frame = s.frame := rfl
@[simp] theorem endOp_status : (endOp s).status = s.status := rfl
@[simp] theorem endOp_extra : (endOp s).extra = s.extra := rfl
@[simp] theorem endOp_shape : (endOp s).shape = s.shape := rfl
@[simp] theorem endOp_readyCnt : (endOp s).readyCnt = s.readyCnt := rfl
@[simp] theorem endOp_respCnt : (endOp s).respCnt = s.respCnt := rfl
@[simp] theorem endOp_vpCnt : (endOp s).vpCnt = s.vpCnt := rfl
@[simp] theorem endOp_ocCnt : (endOp s).ocCnt = s.ocCnt := rfl
@[simp] theorem endOp_version : (endOp s).version = s.version := rfl
@[simp] theorem endOp_capacity : (endOp s).capacity = s.capacity := rfl
@[simp] theorem endOp_errCode : (endOp s).errCode = s.errCode := rfl
@[simp] theorem endOp_failState : (endOp s).failState = s.failState := rfl
@[simp] theorem endOp_csLevel : (endOp s).csLevel = s.csLevel := rfl
@[simp] theorem endOp_scopeOpen : (endOp s).scopeOpen = s.scopeOpen := rfl
@[simp] theorem endOp_owned : (endOp s).owned = s.owned := rfl
@[simp] theorem endOp_speedupReq : (endOp s).speedupReq = s.speedupReq := rfl
@[simp] theorem endOp_micro : (endOp s).micro = .idle := rfl
@[simp] theorem endOp_op : (endOp s).op = .none := rfl
@[simp] theorem endOp_cmd : (endOp s).cmd = none := rfl
@[simp] theorem endOp_host : (endOp s).host = s.host := rfl
@[simp] theorem endOp_answers : (endOp s).answers = s.answers := rfl
@[simp] theorem endOp_trace : (endOp s).trace = s.trace := rfl
@[simp] theorem endOp_rsp : (endOp s).rsp = s.rsp := rfl

/-! A result of an operation other than INIT. -/

@[simp] theorem returnOk_params (d : RspData) : (returnOk d s).params = s.params := rfl
@[simp] theorem returnOk_state (d : RspData) : (returnOk d s).state = s.state := rfl
@[simp] theorem returnOk_busy (d : RspData) : (returnOk d s).busy = false := rfl
@[simp] theorem returnOk_crc (d : RspData) : (returnOk d s).crc = s.crc := rfl
@[simp] theorem returnOk_frame (d : RspData) : (returnOk d s).frame = s.frame := rfl
@[simp] theorem returnOk_status (d : RspData) : (returnOk d s).status = s.status := rfl
@[simp] theorem returnOk_extra (d : RspData) : (returnOk d s).extra = s.extra := rfl
@[simp] theorem returnOk_shape (d : RspData) : (returnOk d s).shape = s.shape := rfl
@[simp] theorem returnOk_readyCnt (d : RspData) : (returnOk d s).readyCnt = s.readyCnt := rfl
@[simp] theorem returnOk_respCnt (d : RspData) : (returnOk d s).respCnt = s.respCnt := rfl
@[simp] theorem returnOk_vpCnt (d : RspData) : (returnOk d s).vpCnt = s.vpCnt := rfl
@[simp] theorem returnOk_ocCnt (d : RspData) : (returnOk d s).ocCnt = s.ocCnt := rfl
@[simp] theorem returnOk_version (d : RspData) : (returnOk d s).version = s.version := rfl
@[simp] theorem returnOk_capacity (d : RspData) : (returnOk d s).capacity = s.capacity := rfl
@[simp] theorem returnOk_errCode (d : RspData) : (returnOk d s).errCode = none := rfl
@[simp] theorem returnOk_failState (d : RspData) : (returnOk d s).failState = s.failState := rfl
@[simp] theorem returnOk_csLevel (d : RspData) : (returnOk d s).csLevel = s.csLevel := rfl
@[simp] theorem returnOk_scopeOpen (d : RspData) : (returnOk d s).scopeOpen = s.scopeOpen := rfl
@[simp] theorem returnOk_owned (d : RspData) : (returnOk d s).owned = s.owned := rfl
@[simp] theorem returnOk_speedupReq (d : RspData) : (returnOk d s).speedupReq = s.speedupReq := rfl
@[simp] theorem returnOk_micro (d : RspData) : (returnOk d s).micro = .idle := rfl
@[simp] theorem returnOk_op (d : RspData) : (returnOk d s).op = .none := rfl
@[simp] theorem returnOk_cmd (d : RspData) : (returnOk d s).cmd = none := rfl
@[simp] theorem returnOk_host (d : RspData) : (returnOk d s).host = s.host := rfl
@[simp] theorem returnOk_answers (d : RspData) : (returnOk d s).answers = s.answers := rfl
@[simp] theorem returnOk_trace (d : RspData) : (returnOk d s).trace = s.trace := rfl
@[simp] theorem returnOk_rsp (d : RspData) : (returnOk d s).rsp = s.rsp ++ [⟨true, d, none, false⟩] := rfl

/-! An error of an operation other than INIT. -/

@[simp] theorem failOp_params (e : Err) : (failOp e s).params = s.params := rfl
@[simp] theorem failOp_state (e : Err) : (failOp e s).state = s.state := rfl
@[simp] theorem failOp_busy (e : Err) : (failOp e s).busy = false := rfl
@[simp] theorem failOp_crc (e : Err) : (failOp e s).crc = s.crc := rfl
@[simp] theorem failOp_frame (e : Err) : (failOp e s).frame = s.frame := rfl
@[simp] theorem failOp_status (e : Err) : (failOp e s).status = s.status := rfl
@[simp] theorem failOp_extra (e : Err) : (failOp e s).extra = s.extra := rfl
@[simp] theorem failOp_shape (e : Err) : (failOp e s).shape = s.shape := rfl
@[simp] theorem failOp_readyCnt (e : Err) : (failOp e s).readyCnt = s.readyCnt := rfl
@[simp] theorem failOp_respCnt (e : Err) : (failOp e s).respCnt = s.respCnt := rfl
@[simp] theorem failOp_vpCnt (e : Err) : (failOp e s).vpCnt = s.vpCnt := rfl
@[simp] theorem failOp_ocCnt (e : Err) : (failOp e s).ocCnt = s.ocCnt := rfl
@[simp] theorem failOp_version (e : Err) : (failOp e s).version = s.version := rfl
@[simp] theorem failOp_capacity (e : Err) : (failOp e s).capacity = s.capacity := rfl
@[simp] theorem failOp_errCode (e : Err) : (failOp e s).errCode = some e := rfl
@[simp] theorem failOp_failState (e : Err) : (failOp e s).failState = s.failState := rfl
@[simp] theorem failOp_csLevel (e : Err) : (failOp e s).csLevel = s.csLevel := rfl
@[simp] theorem failOp_scopeOpen (e : Err) : (failOp e s).scopeOpen = s.scopeOpen := rfl
@[simp] theorem failOp_owned (e : Err) : (failOp e s).owned = s.owned := rfl
@[simp] theorem failOp_speedupReq (e : Err) : (failOp e s).speedupReq = s.speedupReq := rfl
@[simp] theorem failOp_micro (e : Err) : (failOp e s).micro = .idle := rfl
@[simp] theorem failOp_op (e : Err) : (failOp e s).op = .none := rfl
@[simp] theorem failOp_cmd (e : Err) : (failOp e s).cmd = none := rfl
@[simp] theorem failOp_host (e : Err) : (failOp e s).host = s.host := rfl
@[simp] theorem failOp_answers (e : Err) : (failOp e s).answers = s.answers := rfl
@[simp] theorem failOp_trace (e : Err) : (failOp e s).trace = s.trace := rfl
@[simp] theorem failOp_rsp (e : Err) : (failOp e s).rsp = s.rsp ++ [⟨false, .none, some e, false⟩] := rfl

/-! INIT's abort. -/

@[simp] theorem abortInit_params (e : Err) : (abortInit e s).params = s.params := rfl
@[simp] theorem abortInit_state (e : Err) : (abortInit e s).state = .unusable := rfl
@[simp] theorem abortInit_busy (e : Err) : (abortInit e s).busy = false := rfl
@[simp] theorem abortInit_crc (e : Err) : (abortInit e s).crc = s.crc := rfl
@[simp] theorem abortInit_frame (e : Err) : (abortInit e s).frame = s.frame := rfl
@[simp] theorem abortInit_status (e : Err) : (abortInit e s).status = s.status := rfl
@[simp] theorem abortInit_extra (e : Err) : (abortInit e s).extra = s.extra := rfl
@[simp] theorem abortInit_shape (e : Err) : (abortInit e s).shape = s.shape := rfl
@[simp] theorem abortInit_readyCnt (e : Err) : (abortInit e s).readyCnt = s.readyCnt := rfl
@[simp] theorem abortInit_respCnt (e : Err) : (abortInit e s).respCnt = s.respCnt := rfl
@[simp] theorem abortInit_vpCnt (e : Err) : (abortInit e s).vpCnt = s.vpCnt := rfl
@[simp] theorem abortInit_ocCnt (e : Err) : (abortInit e s).ocCnt = s.ocCnt := rfl
@[simp] theorem abortInit_version (e : Err) : (abortInit e s).version = s.version := rfl
@[simp] theorem abortInit_capacity (e : Err) : (abortInit e s).capacity = s.capacity := rfl
@[simp] theorem abortInit_errCode (e : Err) : (abortInit e s).errCode = some e := rfl
@[simp] theorem abortInit_failState (e : Err) : (abortInit e s).failState = s.state := rfl
@[simp] theorem abortInit_csLevel (e : Err) : (abortInit e s).csLevel = s.csLevel := rfl
@[simp] theorem abortInit_scopeOpen (e : Err) : (abortInit e s).scopeOpen = s.scopeOpen := rfl
@[simp] theorem abortInit_owned (e : Err) : (abortInit e s).owned = false := rfl
@[simp] theorem abortInit_speedupReq (e : Err) : (abortInit e s).speedupReq = s.speedupReq := rfl
@[simp] theorem abortInit_micro (e : Err) : (abortInit e s).micro = .idle := rfl
@[simp] theorem abortInit_op (e : Err) : (abortInit e s).op = .none := rfl
@[simp] theorem abortInit_cmd (e : Err) : (abortInit e s).cmd = none := rfl
@[simp] theorem abortInit_host (e : Err) : (abortInit e s).host = s.host := rfl
@[simp] theorem abortInit_answers (e : Err) : (abortInit e s).answers = s.answers := rfl
@[simp] theorem abortInit_trace (e : Err) : (abortInit e s).trace = s.trace := rfl
@[simp] theorem abortInit_rsp (e : Err) : (abortInit e s).rsp = s.rsp ++ [⟨false, .none, some e, true⟩] := rfl

/-! INIT's end in Ready. -/

@[simp] theorem readyInit_params (c : CapClass) : (readyInit c s).params = s.params := rfl
@[simp] theorem readyInit_state (c : CapClass) : (readyInit c s).state = .ready := rfl
@[simp] theorem readyInit_busy (c : CapClass) : (readyInit c s).busy = false := rfl
@[simp] theorem readyInit_crc (c : CapClass) : (readyInit c s).crc = s.crc := rfl
@[simp] theorem readyInit_frame (c : CapClass) : (readyInit c s).frame = s.frame := rfl
@[simp] theorem readyInit_status (c : CapClass) : (readyInit c s).status = s.status := rfl
@[simp] theorem readyInit_extra (c : CapClass) : (readyInit c s).extra = s.extra := rfl
@[simp] theorem readyInit_shape (c : CapClass) : (readyInit c s).shape = s.shape := rfl
@[simp] theorem readyInit_readyCnt (c : CapClass) : (readyInit c s).readyCnt = s.readyCnt := rfl
@[simp] theorem readyInit_respCnt (c : CapClass) : (readyInit c s).respCnt = s.respCnt := rfl
@[simp] theorem readyInit_vpCnt (c : CapClass) : (readyInit c s).vpCnt = s.vpCnt := rfl
@[simp] theorem readyInit_ocCnt (c : CapClass) : (readyInit c s).ocCnt = s.ocCnt := rfl
@[simp] theorem readyInit_version (c : CapClass) : (readyInit c s).version = s.version := rfl
@[simp] theorem readyInit_capacity (c : CapClass) : (readyInit c s).capacity = s.capacity := rfl
@[simp] theorem readyInit_errCode (c : CapClass) : (readyInit c s).errCode = s.errCode := rfl
@[simp] theorem readyInit_failState (c : CapClass) : (readyInit c s).failState = s.failState := rfl
@[simp] theorem readyInit_csLevel (c : CapClass) : (readyInit c s).csLevel = s.csLevel := rfl
@[simp] theorem readyInit_scopeOpen (c : CapClass) : (readyInit c s).scopeOpen = s.scopeOpen := rfl
@[simp] theorem readyInit_owned (c : CapClass) : (readyInit c s).owned = false := rfl
@[simp] theorem readyInit_speedupReq (c : CapClass) : (readyInit c s).speedupReq = s.speedupReq := rfl
@[simp] theorem readyInit_micro (c : CapClass) : (readyInit c s).micro = .idle := rfl
@[simp] theorem readyInit_op (c : CapClass) : (readyInit c s).op = .none := rfl
@[simp] theorem readyInit_cmd (c : CapClass) : (readyInit c s).cmd = none := rfl
@[simp] theorem readyInit_host (c : CapClass) : (readyInit c s).host = s.host := rfl
@[simp] theorem readyInit_answers (c : CapClass) : (readyInit c s).answers = s.answers := rfl
@[simp] theorem readyInit_trace (c : CapClass) : (readyInit c s).trace = s.trace := rfl
@[simp] theorem readyInit_rsp (c : CapClass) : (readyInit c s).rsp = s.rsp ++ [⟨true, .capacity c, none, true⟩] := rfl

/-! An attempt of `wait_ready`. -/

@[simp] theorem readyAttempt_params : (readyAttempt s).params = s.params := rfl
@[simp] theorem readyAttempt_state : (readyAttempt s).state = s.state := rfl
@[simp] theorem readyAttempt_busy : (readyAttempt s).busy = s.busy := rfl
@[simp] theorem readyAttempt_crc : (readyAttempt s).crc = s.crc := rfl
@[simp] theorem readyAttempt_frame : (readyAttempt s).frame = s.frame := rfl
@[simp] theorem readyAttempt_status : (readyAttempt s).status = s.status := rfl
@[simp] theorem readyAttempt_extra : (readyAttempt s).extra = s.extra := rfl
@[simp] theorem readyAttempt_shape : (readyAttempt s).shape = s.shape := rfl
@[simp] theorem readyAttempt_readyCnt : (readyAttempt s).readyCnt = s.readyCnt + 1 := rfl
@[simp] theorem readyAttempt_respCnt : (readyAttempt s).respCnt = s.respCnt := rfl
@[simp] theorem readyAttempt_vpCnt : (readyAttempt s).vpCnt = s.vpCnt := rfl
@[simp] theorem readyAttempt_ocCnt : (readyAttempt s).ocCnt = s.ocCnt := rfl
@[simp] theorem readyAttempt_version : (readyAttempt s).version = s.version := rfl
@[simp] theorem readyAttempt_capacity : (readyAttempt s).capacity = s.capacity := rfl
@[simp] theorem readyAttempt_errCode : (readyAttempt s).errCode = s.errCode := rfl
@[simp] theorem readyAttempt_failState : (readyAttempt s).failState = s.failState := rfl
@[simp] theorem readyAttempt_csLevel : (readyAttempt s).csLevel = s.csLevel := rfl
@[simp] theorem readyAttempt_scopeOpen : (readyAttempt s).scopeOpen = s.scopeOpen := rfl
@[simp] theorem readyAttempt_owned : (readyAttempt s).owned = s.owned := rfl
@[simp] theorem readyAttempt_speedupReq : (readyAttempt s).speedupReq = s.speedupReq := rfl
@[simp] theorem readyAttempt_micro : (readyAttempt s).micro = .readyXfer := rfl
@[simp] theorem readyAttempt_op : (readyAttempt s).op = s.op := rfl
@[simp] theorem readyAttempt_cmd : (readyAttempt s).cmd = s.cmd := rfl
@[simp] theorem readyAttempt_host : (readyAttempt s).host = s.host := rfl
@[simp] theorem readyAttempt_answers : (readyAttempt s).answers = s.answers := rfl
@[simp] theorem readyAttempt_trace : (readyAttempt s).trace = s.trace := rfl
@[simp] theorem readyAttempt_rsp : (readyAttempt s).rsp = s.rsp := rfl

/-! The start of `wait_ready`. -/

@[simp] theorem startReady_params : (startReady s).params = s.params := rfl
@[simp] theorem startReady_state : (startReady s).state = s.state := rfl
@[simp] theorem startReady_busy : (startReady s).busy = s.busy := rfl
@[simp] theorem startReady_crc : (startReady s).crc = s.crc := rfl
@[simp] theorem startReady_frame : (startReady s).frame = s.frame := rfl
@[simp] theorem startReady_status : (startReady s).status = s.status := rfl
@[simp] theorem startReady_extra : (startReady s).extra = s.extra := rfl
@[simp] theorem startReady_shape : (startReady s).shape = s.shape := rfl
@[simp] theorem startReady_readyCnt : (startReady s).readyCnt = 1 := rfl
@[simp] theorem startReady_respCnt : (startReady s).respCnt = s.respCnt := rfl
@[simp] theorem startReady_vpCnt : (startReady s).vpCnt = s.vpCnt := rfl
@[simp] theorem startReady_ocCnt : (startReady s).ocCnt = s.ocCnt := rfl
@[simp] theorem startReady_version : (startReady s).version = s.version := rfl
@[simp] theorem startReady_capacity : (startReady s).capacity = s.capacity := rfl
@[simp] theorem startReady_errCode : (startReady s).errCode = s.errCode := rfl
@[simp] theorem startReady_failState : (startReady s).failState = s.failState := rfl
@[simp] theorem startReady_csLevel : (startReady s).csLevel = s.csLevel := rfl
@[simp] theorem startReady_scopeOpen : (startReady s).scopeOpen = s.scopeOpen := rfl
@[simp] theorem startReady_owned : (startReady s).owned = s.owned := rfl
@[simp] theorem startReady_speedupReq : (startReady s).speedupReq = s.speedupReq := rfl
@[simp] theorem startReady_micro : (startReady s).micro = .readyXfer := rfl
@[simp] theorem startReady_op : (startReady s).op = s.op := rfl
@[simp] theorem startReady_cmd : (startReady s).cmd = s.cmd := rfl
@[simp] theorem startReady_host : (startReady s).host = s.host := rfl
@[simp] theorem startReady_answers : (startReady s).answers = s.answers := rfl
@[simp] theorem startReady_trace : (startReady s).trace = s.trace := rfl
@[simp] theorem startReady_rsp : (startReady s).rsp = s.rsp := rfl

/-! The start of a plain WAIT_READY. -/

@[simp] theorem beginWaitReady_params : (beginWaitReady s).params = s.params := rfl
@[simp] theorem beginWaitReady_state : (beginWaitReady s).state = s.state := rfl
@[simp] theorem beginWaitReady_busy : (beginWaitReady s).busy = s.busy := rfl
@[simp] theorem beginWaitReady_crc : (beginWaitReady s).crc = s.crc := rfl
@[simp] theorem beginWaitReady_frame : (beginWaitReady s).frame = s.frame := rfl
@[simp] theorem beginWaitReady_status : (beginWaitReady s).status = s.status := rfl
@[simp] theorem beginWaitReady_extra : (beginWaitReady s).extra = s.extra := rfl
@[simp] theorem beginWaitReady_shape : (beginWaitReady s).shape = s.shape := rfl
@[simp] theorem beginWaitReady_readyCnt : (beginWaitReady s).readyCnt = 1 := rfl
@[simp] theorem beginWaitReady_respCnt : (beginWaitReady s).respCnt = s.respCnt := rfl
@[simp] theorem beginWaitReady_vpCnt : (beginWaitReady s).vpCnt = s.vpCnt := rfl
@[simp] theorem beginWaitReady_ocCnt : (beginWaitReady s).ocCnt = s.ocCnt := rfl
@[simp] theorem beginWaitReady_version : (beginWaitReady s).version = s.version := rfl
@[simp] theorem beginWaitReady_capacity : (beginWaitReady s).capacity = s.capacity := rfl
@[simp] theorem beginWaitReady_errCode : (beginWaitReady s).errCode = s.errCode := rfl
@[simp] theorem beginWaitReady_failState : (beginWaitReady s).failState = s.failState := rfl
@[simp] theorem beginWaitReady_csLevel : (beginWaitReady s).csLevel = s.csLevel := rfl
@[simp] theorem beginWaitReady_scopeOpen : (beginWaitReady s).scopeOpen = s.scopeOpen := rfl
@[simp] theorem beginWaitReady_owned : (beginWaitReady s).owned = s.owned := rfl
@[simp] theorem beginWaitReady_speedupReq : (beginWaitReady s).speedupReq = s.speedupReq := rfl
@[simp] theorem beginWaitReady_micro : (beginWaitReady s).micro = .readyXfer := rfl
@[simp] theorem beginWaitReady_op : (beginWaitReady s).op = s.op := rfl
@[simp] theorem beginWaitReady_cmd : (beginWaitReady s).cmd = none := rfl
@[simp] theorem beginWaitReady_host : (beginWaitReady s).host = s.host := rfl
@[simp] theorem beginWaitReady_answers : (beginWaitReady s).answers = s.answers := rfl
@[simp] theorem beginWaitReady_trace : (beginWaitReady s).trace = s.trace := rfl
@[simp] theorem beginWaitReady_rsp : (beginWaitReady s).rsp = s.rsp := rfl

/-! The start of EXEC_CMD. -/

@[simp] theorem beginExecCmd_params (i : Index) (a : Word) (sh : Shape) : (beginExecCmd i a sh s).params = s.params := rfl
@[simp] theorem beginExecCmd_state (i : Index) (a : Word) (sh : Shape) : (beginExecCmd i a sh s).state = s.state := rfl
@[simp] theorem beginExecCmd_busy (i : Index) (a : Word) (sh : Shape) : (beginExecCmd i a sh s).busy = s.busy := rfl
@[simp] theorem beginExecCmd_crc (i : Index) (a : Word) (sh : Shape) : (beginExecCmd i a sh s).crc = s.crc := rfl
@[simp] theorem beginExecCmd_frame (i : Index) (a : Word) (sh : Shape) : (beginExecCmd i a sh s).frame = s.frame := rfl
@[simp] theorem beginExecCmd_status (i : Index) (a : Word) (sh : Shape) : (beginExecCmd i a sh s).status = s.status := rfl
@[simp] theorem beginExecCmd_extra (i : Index) (a : Word) (sh : Shape) : (beginExecCmd i a sh s).extra = s.extra := rfl
@[simp] theorem beginExecCmd_shape (i : Index) (a : Word) (sh : Shape) : (beginExecCmd i a sh s).shape = sh := rfl
@[simp] theorem beginExecCmd_readyCnt (i : Index) (a : Word) (sh : Shape) : (beginExecCmd i a sh s).readyCnt = 1 := rfl
@[simp] theorem beginExecCmd_respCnt (i : Index) (a : Word) (sh : Shape) : (beginExecCmd i a sh s).respCnt = s.respCnt := rfl
@[simp] theorem beginExecCmd_vpCnt (i : Index) (a : Word) (sh : Shape) : (beginExecCmd i a sh s).vpCnt = s.vpCnt := rfl
@[simp] theorem beginExecCmd_ocCnt (i : Index) (a : Word) (sh : Shape) : (beginExecCmd i a sh s).ocCnt = s.ocCnt := rfl
@[simp] theorem beginExecCmd_version (i : Index) (a : Word) (sh : Shape) : (beginExecCmd i a sh s).version = s.version := rfl
@[simp] theorem beginExecCmd_capacity (i : Index) (a : Word) (sh : Shape) : (beginExecCmd i a sh s).capacity = s.capacity := rfl
@[simp] theorem beginExecCmd_errCode (i : Index) (a : Word) (sh : Shape) : (beginExecCmd i a sh s).errCode = s.errCode := rfl
@[simp] theorem beginExecCmd_failState (i : Index) (a : Word) (sh : Shape) : (beginExecCmd i a sh s).failState = s.failState := rfl
@[simp] theorem beginExecCmd_csLevel (i : Index) (a : Word) (sh : Shape) : (beginExecCmd i a sh s).csLevel = s.csLevel := rfl
@[simp] theorem beginExecCmd_scopeOpen (i : Index) (a : Word) (sh : Shape) : (beginExecCmd i a sh s).scopeOpen = s.scopeOpen := rfl
@[simp] theorem beginExecCmd_owned (i : Index) (a : Word) (sh : Shape) : (beginExecCmd i a sh s).owned = s.owned := rfl
@[simp] theorem beginExecCmd_speedupReq (i : Index) (a : Word) (sh : Shape) : (beginExecCmd i a sh s).speedupReq = s.speedupReq := rfl
@[simp] theorem beginExecCmd_micro (i : Index) (a : Word) (sh : Shape) : (beginExecCmd i a sh s).micro = .readyXfer := rfl
@[simp] theorem beginExecCmd_op (i : Index) (a : Word) (sh : Shape) : (beginExecCmd i a sh s).op = s.op := rfl
@[simp] theorem beginExecCmd_cmd (i : Index) (a : Word) (sh : Shape) : (beginExecCmd i a sh s).cmd = some ⟨i, a⟩ := rfl
@[simp] theorem beginExecCmd_host (i : Index) (a : Word) (sh : Shape) : (beginExecCmd i a sh s).host = s.host := rfl
@[simp] theorem beginExecCmd_answers (i : Index) (a : Word) (sh : Shape) : (beginExecCmd i a sh s).answers = s.answers := rfl
@[simp] theorem beginExecCmd_trace (i : Index) (a : Word) (sh : Shape) : (beginExecCmd i a sh s).trace = s.trace := rfl
@[simp] theorem beginExecCmd_rsp (i : Index) (a : Word) (sh : Shape) : (beginExecCmd i a sh s).rsp = s.rsp := rfl

/-! The part of EXEC_CMD that emits the frame. -/

@[simp] theorem sendCommand_params (i : Index) (a : Word) : (sendCommand i a s).params = s.params := rfl
@[simp] theorem sendCommand_state (i : Index) (a : Word) : (sendCommand i a s).state = s.state := rfl
@[simp] theorem sendCommand_busy (i : Index) (a : Word) : (sendCommand i a s).busy = true := rfl
@[simp] theorem sendCommand_crc (i : Index) (a : Word) : (sendCommand i a s).crc = frameCrc i a := rfl
@[simp] theorem sendCommand_frame (i : Index) (a : Word) : (sendCommand i a s).frame = frameOf i a := rfl
@[simp] theorem sendCommand_status (i : Index) (a : Word) : (sendCommand i a s).status = s.status := rfl
@[simp] theorem sendCommand_extra (i : Index) (a : Word) : (sendCommand i a s).extra = s.extra := rfl
@[simp] theorem sendCommand_shape (i : Index) (a : Word) : (sendCommand i a s).shape = s.shape := rfl
@[simp] theorem sendCommand_readyCnt (i : Index) (a : Word) : (sendCommand i a s).readyCnt = s.readyCnt := rfl
@[simp] theorem sendCommand_respCnt (i : Index) (a : Word) : (sendCommand i a s).respCnt = s.respCnt := rfl
@[simp] theorem sendCommand_vpCnt (i : Index) (a : Word) : (sendCommand i a s).vpCnt = s.vpCnt := rfl
@[simp] theorem sendCommand_ocCnt (i : Index) (a : Word) : (sendCommand i a s).ocCnt = s.ocCnt := rfl
@[simp] theorem sendCommand_version (i : Index) (a : Word) : (sendCommand i a s).version = s.version := rfl
@[simp] theorem sendCommand_capacity (i : Index) (a : Word) : (sendCommand i a s).capacity = s.capacity := rfl
@[simp] theorem sendCommand_errCode (i : Index) (a : Word) : (sendCommand i a s).errCode = none := rfl
@[simp] theorem sendCommand_failState (i : Index) (a : Word) : (sendCommand i a s).failState = s.failState := rfl
@[simp] theorem sendCommand_csLevel (i : Index) (a : Word) : (sendCommand i a s).csLevel = s.csLevel := rfl
@[simp] theorem sendCommand_scopeOpen (i : Index) (a : Word) : (sendCommand i a s).scopeOpen = s.scopeOpen := rfl
@[simp] theorem sendCommand_owned (i : Index) (a : Word) : (sendCommand i a s).owned = s.owned := rfl
@[simp] theorem sendCommand_speedupReq (i : Index) (a : Word) : (sendCommand i a s).speedupReq = s.speedupReq := rfl
@[simp] theorem sendCommand_micro (i : Index) (a : Word) : (sendCommand i a s).micro = .frameWrite := rfl
@[simp] theorem sendCommand_op (i : Index) (a : Word) : (sendCommand i a s).op = s.op := rfl
@[simp] theorem sendCommand_cmd (i : Index) (a : Word) : (sendCommand i a s).cmd = some ⟨i, a⟩ := rfl
@[simp] theorem sendCommand_host (i : Index) (a : Word) : (sendCommand i a s).host = s.host := rfl
@[simp] theorem sendCommand_answers (i : Index) (a : Word) : (sendCommand i a s).answers = s.answers := rfl
@[simp] theorem sendCommand_trace (i : Index) (a : Word) : (sendCommand i a s).trace = s.trace := rfl
@[simp] theorem sendCommand_rsp (i : Index) (a : Word) : (sendCommand i a s).rsp = s.rsp := rfl

/-! The registers R36 marks unset. -/

@[simp] theorem unsetRegs_params : (unsetRegs s).params = s.params := rfl
@[simp] theorem unsetRegs_state : (unsetRegs s).state = s.state := rfl
@[simp] theorem unsetRegs_busy : (unsetRegs s).busy = s.busy := rfl
@[simp] theorem unsetRegs_crc : (unsetRegs s).crc = 0 := rfl
@[simp] theorem unsetRegs_frame : (unsetRegs s).frame = ⟨0, 0, 0, 0, 0, 0⟩ := rfl
@[simp] theorem unsetRegs_status : (unsetRegs s).status = 0 := rfl
@[simp] theorem unsetRegs_extra : (unsetRegs s).extra = ⟨0, 0, 0, 0⟩ := rfl
@[simp] theorem unsetRegs_shape : (unsetRegs s).shape = .r1 := rfl
@[simp] theorem unsetRegs_readyCnt : (unsetRegs s).readyCnt = s.readyCnt := rfl
@[simp] theorem unsetRegs_respCnt : (unsetRegs s).respCnt = s.respCnt := rfl
@[simp] theorem unsetRegs_vpCnt : (unsetRegs s).vpCnt = s.vpCnt := rfl
@[simp] theorem unsetRegs_ocCnt : (unsetRegs s).ocCnt = s.ocCnt := rfl
@[simp] theorem unsetRegs_version : (unsetRegs s).version = none := rfl
@[simp] theorem unsetRegs_capacity : (unsetRegs s).capacity = none := rfl
@[simp] theorem unsetRegs_errCode : (unsetRegs s).errCode = s.errCode := rfl
@[simp] theorem unsetRegs_failState : (unsetRegs s).failState = .detached := rfl
@[simp] theorem unsetRegs_csLevel : (unsetRegs s).csLevel = s.csLevel := rfl
@[simp] theorem unsetRegs_scopeOpen : (unsetRegs s).scopeOpen = s.scopeOpen := rfl
@[simp] theorem unsetRegs_owned : (unsetRegs s).owned = s.owned := rfl
@[simp] theorem unsetRegs_speedupReq : (unsetRegs s).speedupReq = s.speedupReq := rfl
@[simp] theorem unsetRegs_micro : (unsetRegs s).micro = s.micro := rfl
@[simp] theorem unsetRegs_op : (unsetRegs s).op = s.op := rfl
@[simp] theorem unsetRegs_cmd : (unsetRegs s).cmd = s.cmd := rfl
@[simp] theorem unsetRegs_host : (unsetRegs s).host = s.host := rfl
@[simp] theorem unsetRegs_answers : (unsetRegs s).answers = s.answers := rfl
@[simp] theorem unsetRegs_trace : (unsetRegs s).trace = s.trace := rfl
@[simp] theorem unsetRegs_rsp : (unsetRegs s).rsp = s.rsp := rfl

/-! Reset. -/

@[simp] theorem applyReset_params : (applyReset s).params = s.params := rfl
@[simp] theorem applyReset_state : (applyReset s).state = .detached := rfl
@[simp] theorem applyReset_busy : (applyReset s).busy = false := rfl
@[simp] theorem applyReset_crc : (applyReset s).crc = 0 := rfl
@[simp] theorem applyReset_frame : (applyReset s).frame = ⟨0, 0, 0, 0, 0, 0⟩ := rfl
@[simp] theorem applyReset_status : (applyReset s).status = 0 := rfl
@[simp] theorem applyReset_extra : (applyReset s).extra = ⟨0, 0, 0, 0⟩ := rfl
@[simp] theorem applyReset_shape : (applyReset s).shape = .r1 := rfl
@[simp] theorem applyReset_readyCnt : (applyReset s).readyCnt = 0 := rfl
@[simp] theorem applyReset_respCnt : (applyReset s).respCnt = 0 := rfl
@[simp] theorem applyReset_vpCnt : (applyReset s).vpCnt = 0 := rfl
@[simp] theorem applyReset_ocCnt : (applyReset s).ocCnt = 0 := rfl
@[simp] theorem applyReset_version : (applyReset s).version = none := rfl
@[simp] theorem applyReset_capacity : (applyReset s).capacity = none := rfl
@[simp] theorem applyReset_errCode : (applyReset s).errCode = none := rfl
@[simp] theorem applyReset_failState : (applyReset s).failState = .detached := rfl
@[simp] theorem applyReset_csLevel : (applyReset s).csLevel = .unknown := rfl
@[simp] theorem applyReset_scopeOpen : (applyReset s).scopeOpen = false := rfl
@[simp] theorem applyReset_owned : (applyReset s).owned = false := rfl
@[simp] theorem applyReset_speedupReq : (applyReset s).speedupReq = false := rfl
@[simp] theorem applyReset_micro : (applyReset s).micro = .idle := rfl
@[simp] theorem applyReset_op : (applyReset s).op = .none := rfl
@[simp] theorem applyReset_cmd : (applyReset s).cmd = none := rfl
@[simp] theorem applyReset_host : (applyReset s).host = s.host := rfl
@[simp] theorem applyReset_answers : (applyReset s).answers = s.answers := rfl
@[simp] theorem applyReset_trace : (applyReset s).trace = s.trace := rfl
@[simp] theorem applyReset_rsp : (applyReset s).rsp = s.rsp := rfl

end Sys2Proof.Machine
end

