-- ==== Sys2Proof/Laws/Run.lean ====
section
/-! SUPPORT. How a run goes on: what one step is at each point of a running operation, how runs compose, and the runs of
`wait_ready`, of the status poll, of the extra bytes and of a whole EXEC_CMD up to its validation. -/

namespace Sys2Proof.Machine

/-! ## Runs -/

@[simp] theorem runs_zero (s : State) : runs 0 s = .next s := rfl

theorem runs_step {s t : State} (h : step s = .next t) (n : Nat) : runs (n + 1) s = runs n t := by
  simp only [runs, h]

theorem runs_one {s t : State} (h : step s = .next t) : runs 1 s = .next t := runs_step h 0

theorem runs_single (s : State) : runs 1 s = step s := by
  simp only [runs]
  cases step s <;> rfl

theorem runs_then {m n : Nat} {s t : State} (h : runs m s = .next t) : runs (m + n) s = runs n t := by
  induction m generalizing s with
  | zero => cases h; rw [Nat.zero_add]
  | succ m ih =>
    rw [show m + 1 + n = (m + n) + 1 by omega]
    simp only [runs] at h ⊢
    split at h
    · exact ih h
    · cases h
    · cases h

theorem runs_then_step {m : Nat} {s t u : State} (h : runs m s = .next t) (h' : step t = .next u) :
    runs (m + 1) s = .next u := by rw [runs_then h, runs_one h']

/-! ## One step at each point -/

variable {s : State}

theorem step_idle (hb : s.busy = false) (hh : s.host = []) : step s = .next s := by
  simp [step, fetch, hb, fetchHost, hh]

theorem step_request {r : Request} {rest : List HostInput} {i : Instr} (hb : s.busy = false)
    (hh : s.host = .request r :: rest) (hd : decodeRequest r = .ok i) : step s = exec i { s with host := rest } := by
  simp [step, fetch, hb, fetchHost, hh, hd]

theorem step_refuse {r : Request} {rest : List HostInput} {e : Reject} (hb : s.busy = false)
    (hh : s.host = .request r :: rest) (hd : decodeRequest r = .error e) : step s = .fault .illegalRequest := by
  simp [step, fetch, hb, fetchHost, hh, hd]

theorem step_reset {rest : List HostInput} (hb : s.busy = false) (hh : s.host = .reset :: rest) :
    step s = .next (applyReset { s with host := rest }) := by
  simp [step, fetch, hb, fetchHost, hh]

theorem step_readyXfer {a : Answer} {rest : List Answer} (hb : s.busy = true) (hm : s.micro = .readyXfer)
    (ha : s.answers = a :: rest) :
    step s = if a.fault then
        raise .busTransferFault { s with answers := rest, trace := s.trace ++ [.xfer s.params.placeholder none] }
      else readyByte a.byte
        { s with answers := rest, trace := s.trace ++ [.xfer s.params.placeholder (some a.byte)] } := by
  cases hf : a.fault <;>
    simp [step, fetch, fetchBusy, fetchAnswer, resume, pendingCall, hb, hm, ha, hf, logEvent, Call.event]

theorem step_readyDelay {a : Answer} {rest : List Answer} (hb : s.busy = true) (hm : s.micro = .readyDelay)
    (ha : s.answers = a :: rest) :
    step s = .next { s with
      answers := rest, trace := s.trace ++ [.delay s.params.tReadyUs], readyCnt := s.readyCnt + 1, micro := .readyXfer } := by
  simp [step, fetch, fetchBusy, fetchAnswer, resume, pendingCall, hb, hm, ha, logEvent, Call.event, readyAttempt]

theorem step_frameWrite {a : Answer} {rest : List Answer} (hb : s.busy = true) (hm : s.micro = .frameWrite)
    (ha : s.answers = a :: rest) :
    step s = if a.fault then
        raise .busWriteFault { s with answers := rest, trace := s.trace ++ [.write s.frame.toList false] }
      else startPoll { s with answers := rest, trace := s.trace ++ [.write s.frame.toList true] } := by
  cases hx : a.fault <;>
    simp [step, fetch, fetchBusy, fetchAnswer, resume, pendingCall, hb, hm, ha, hx, logEvent, Call.event]

theorem step_pollXfer {a : Answer} {rest : List Answer} (hb : s.busy = true) (hm : s.micro = .pollXfer)
    (ha : s.answers = a :: rest) :
    step s = if a.fault then
        raise .busTransferFault { s with answers := rest, trace := s.trace ++ [.xfer s.params.placeholder none] }
      else pollByte a.byte
        { s with answers := rest, trace := s.trace ++ [.xfer s.params.placeholder (some a.byte)] } := by
  cases hf : a.fault <;>
    simp [step, fetch, fetchBusy, fetchAnswer, resume, pendingCall, hb, hm, ha, hf, logEvent, Call.event]

theorem step_extraXfer {a : Answer} {rest : List Answer} {k : Fin 4} (hb : s.busy = true) (hm : s.micro = .extraXfer k)
    (ha : s.answers = a :: rest) :
    step s = if a.fault then
        raise .busTransferFault { s with answers := rest, trace := s.trace ++ [.xfer s.params.placeholder none] }
      else .next (extraByte k a.byte
        { s with answers := rest, trace := s.trace ++ [.xfer s.params.placeholder (some a.byte)] }) := by
  cases hf : a.fault <;>
    simp [step, fetch, fetchBusy, fetchAnswer, resume, pendingCall, hb, hm, ha, hf, logEvent, Call.event]

theorem step_csLow {a : Answer} {rest : List Answer} (hb : s.busy = true) (hm : s.micro = .csLow)
    (ha : s.answers = a :: rest) :
    step s = csLowAnswered a.fault { s with answers := rest, trace := s.trace ++ [.cs .low (!a.fault)] } := by
  simp [step, fetch, fetchBusy, fetchAnswer, resume, pendingCall, hb, hm, ha, logEvent, Call.event]

theorem step_csHigh {a : Answer} {rest : List Answer} {e : Option Err} (hb : s.busy = true) (hm : s.micro = .csHigh e)
    (ha : s.answers = a :: rest) :
    step s = csHighAnswered e a.fault { s with answers := rest, trace := s.trace ++ [.cs .high (!a.fault)] } := by
  simp [step, fetch, fetchBusy, fetchAnswer, resume, pendingCall, hb, hm, ha, logEvent, Call.event]

theorem step_powerUpDelay {a : Answer} {rest : List Answer} (hb : s.busy = true) (hm : s.micro = .powerUpDelay)
    (ha : s.answers = a :: rest) :
    step s = .next { s with
      answers := rest, trace := s.trace ++ [.delay s.params.tPowerupUs], micro := .powerUpCsHigh } := by
  simp [step, fetch, fetchBusy, fetchAnswer, resume, pendingCall, hb, hm, ha, logEvent, Call.event]

theorem step_powerUpCsHigh {a : Answer} {rest : List Answer} (hb : s.busy = true) (hm : s.micro = .powerUpCsHigh)
    (ha : s.answers = a :: rest) :
    step s = .next (powerUpCsAnswered a.fault
      { s with answers := rest, trace := s.trace ++ [.cs .high (!a.fault)] }) := by
  simp [step, fetch, fetchBusy, fetchAnswer, resume, pendingCall, hb, hm, ha, logEvent, Call.event]

theorem step_powerUpWrite {a : Answer} {rest : List Answer} (hb : s.busy = true) (hm : s.micro = .powerUpWrite)
    (ha : s.answers = a :: rest) :
    step s = powerUpWritten a.fault { s with
      answers := rest, trace := s.trace ++ [.write (List.replicate s.params.nDummy 0xFF) (!a.fault)] } := by
  simp [step, fetch, fetchBusy, fetchAnswer, resume, pendingCall, hb, hm, ha, logEvent, Call.event]

theorem step_opCondDelay {a : Answer} {rest : List Answer} (hb : s.busy = true) (hm : s.micro = .opCondDelay)
    (ha : s.answers = a :: rest) :
    step s = opCondIteration { s with answers := rest, trace := s.trace ++ [.delay s.params.tOcUs] } := by
  simp [step, fetch, fetchBusy, fetchAnswer, resume, pendingCall, hb, hm, ha, logEvent, Call.event]

theorem step_finish (hb : s.busy = true) (hm : s.micro = .finish) : step s = finishInit s := by
  simp [step, fetch, fetchBusy, hb, hm]

/-- The meaning of the row of an index and an argument is to send that frame. -/
theorem exec_commandOf (i : Index) (a : Word) (s : State) :
    exec (commandOf s.params i a) s = .next (sendCommand i a s) := by
  unfold commandOf
  repeat' split
  all_goals simp only [exec, execGoIdleState, execSendIfCond, execCrcOnOff, execAppCmd, execSdSendOpCond, execReadOcr,
    execCmdN]
  all_goals simp_all [ifCondArg_fields]

theorem step_sendFrame {c : CmdOperands} (hb : s.busy = true) (hm : s.micro = .sendFrame) (hc : s.cmd = some c) :
    step s = .next (sendCommand c.index c.arg s) := by
  simp only [step, fetch, fetchBusy, hb, hm, fetchFrame, hc, if_true]
  exact exec_commandOf _ _ _

/-- A response that is complete is received whole: the meanings of the three rows agree on it. -/
theorem step_respond (hb : s.busy = true) (hm : s.micro = .respond) (hne : s.status ≠ sentinel) :
    step s = receive s.status (if readsExtra s.shape s.status then some s.extra else none) s := by
  simp only [step, fetch, fetchBusy, hb, hm, fetchResponse, responseOf, if_true]
  cases htr : isTruncated s.status <;> cases hs : s.shape <;>
    simp [readsExtra, Shape.extraBytes, exec, execRespR1, execRespR3, execRespR7, respond, hne, htr]

/-! ## The run of `wait_ready` -/

/-- Attempts that find the card not ready. -/
theorem runs_misses (misses : List (Byte × Answer)) (s : State) (rest : List Answer) (hb : s.busy = true)
    (hm : s.micro = .readyXfer) (ha : s.answers = missAnswers misses ++ rest) (hne : ∀ m ∈ misses, m.1 ≠ 0xFF)
    (hcnt : s.readyCnt + misses.length ≤ s.params.nReady) :
    runs (2 * misses.length) s = .next { s with
      readyCnt := s.readyCnt + misses.length, answers := rest, trace := s.trace ++ missEvents s.params misses } := by
  induction misses generalizing s with
  | nil =>
    simp [missAnswers] at ha
    simp [missEvents, ← ha]
  | cons m ms ih =>
    have hm1 : m.1 ≠ sentinel := hne m (by simp)
    simp only [List.length_cons] at hcnt
    have h1 : step s = .next { s with
        answers := m.2 :: (missAnswers ms ++ rest),
        trace := s.trace ++ [.xfer s.params.placeholder (some m.1)], micro := .readyDelay } := by
      rw [step_readyXfer hb hm (a := .byteOf m.1) (rest := m.2 :: (missAnswers ms ++ rest)) (by rw [ha]; rfl)]
      have : s.readyCnt ≠ s.params.nReady := by omega
      simp [Answer.byteOf, readyByte, hm1, this]
    have h2 := step_readyDelay (s := { s with
        answers := m.2 :: (missAnswers ms ++ rest),
        trace := s.trace ++ [.xfer s.params.placeholder (some m.1)], micro := .readyDelay }) hb rfl rfl
    rw [show 2 * (m :: ms).length = 2 * ms.length + 1 + 1 by simp; omega, runs_step h1, runs_step h2, ih]
    · simp [missEvents, Nat.add_comm, Nat.add_assoc, hm]
    · exact hb
    · rfl
    · rfl
    · intro x hx; exact hne x (by simp [hx])
    · simp only []; omega

/-- The sentinel ends the wait. -/
theorem step_ready {rest : List Answer} (hb : s.busy = true) (hm : s.micro = .readyXfer)
    (ha : s.answers = Answer.byteOf 0xFF :: rest) :
    step s = .next (readyOk { s with
      answers := rest, trace := s.trace ++ [.xfer s.params.placeholder (some 0xFF)] }) := by
  rw [step_readyXfer hb hm ha]
  simp [Answer.byteOf, readyByte, sentinel]

/-- The whole wait. -/
theorem runs_ready (misses : List (Byte × Answer)) (s : State) (rest : List Answer) (hb : s.busy = true)
    (hm : s.micro = .readyXfer) (ha : s.answers = missAnswers misses ++ Answer.byteOf 0xFF :: rest)
    (hne : ∀ m ∈ misses, m.1 ≠ 0xFF) (hcnt : s.readyCnt + misses.length ≤ s.params.nReady) :
    runs (2 * misses.length + 1) s = .next (readyOk { s with
      readyCnt := s.readyCnt + misses.length, answers := rest
      trace := s.trace ++ missEvents s.params misses ++ [.xfer s.params.placeholder (some 0xFF)] }) :=
  runs_then_step (runs_misses misses s _ hb hm ha hne hcnt) (step_ready hb hm rfl)

/-! ## The run of the status poll and of the extra bytes -/

theorem runs_sentinels (k : Nat) (s : State) (rest : List Answer) (hb : s.busy = true) (hm : s.micro = .pollXfer)
    (ha : s.answers = List.replicate k (Answer.byteOf 0xFF) ++ rest) (hcnt : s.respCnt + k ≤ s.params.nResp) :
    runs k s = .next { s with
      respCnt := s.respCnt + k, answers := rest
      trace := s.trace ++ List.replicate k (.xfer s.params.placeholder (some 0xFF)) } := by
  induction k generalizing s with
  | zero =>
    simp at ha
    simp [← ha]
  | succ k ih =>
    have h1 : step s = .next { s with
        answers := List.replicate k (Answer.byteOf 0xFF) ++ rest,
        trace := s.trace ++ [.xfer s.params.placeholder (some 0xFF)], respCnt := s.respCnt + 1, micro := .pollXfer } := by
      rw [step_pollXfer hb hm (a := .byteOf 0xFF) (rest := List.replicate k (Answer.byteOf 0xFF) ++ rest)
        (by rw [ha, List.replicate_succ]; rfl)]
      have : s.respCnt ≠ s.params.nResp := by omega
      simp [Answer.byteOf, pollByte, sentinel, pollAttempt, this]
    rw [runs_step h1, ih]
    · simp [List.replicate_succ, Nat.add_assoc, Nat.add_comm 1, hm]
    · exact hb
    · rfl
    · rfl
    · simp only []; omega

/-- One extra byte. -/
theorem step_extraByte {b : Byte} {rest : List Answer} {k : Fin 4} (hb : s.busy = true) (hm : s.micro = .extraXfer k)
    (ha : s.answers = .byteOf b :: rest) :
    step s = .next (extraByte k b
      { s with answers := rest, trace := s.trace ++ [.xfer s.params.placeholder (some b)] }) := by
  rw [step_extraXfer hb hm ha]
  simp [Answer.byteOf]

/-- The four extra bytes of a response. -/
theorem runs_extra (s : State) (q : Quad) (rest : List Answer) (hb : s.busy = true) (hm : s.micro = .extraXfer 0)
    (ha : s.answers = Quad.answers q ++ rest) :
    runs 4 s = .next { s with
      extra := q, micro := .respond, answers := rest, trace := s.trace ++ Quad.events s.params q } := by
  obtain ⟨e0, e1, e2, e3⟩ := q
  let got (b : Byte) (l : List Answer) (u : State) : State :=
    { u with answers := l, trace := u.trace ++ [.xfer u.params.placeholder (some b)] }
  let s1 := extraByte 0 e0 (got e0 (.byteOf e1 :: .byteOf e2 :: .byteOf e3 :: rest) s)
  let s2 := extraByte 1 e1 (got e1 (.byteOf e2 :: .byteOf e3 :: rest) s1)
  let s3 := extraByte 2 e2 (got e2 (.byteOf e3 :: rest) s2)
  have h0 : step s = .next s1 := step_extraByte hb hm ha
  have h1 : step s1 = .next s2 := step_extraByte (k := 1) hb rfl rfl
  have h2 : step s2 = .next s3 := step_extraByte (k := 2) hb rfl rfl
  have h3 : step s3 = .next (extraByte 3 e3 (got e3 rest s3)) := step_extraByte (k := 3) hb rfl rfl
  rw [runs_step h0, runs_step h1, runs_step h2, runs_one h3]
  simp [s1, s2, s3, got, extraByte, Quad.set, Quad.events, Quad.toList]

/-! ## The run of EXEC_CMD -/

/-- From the first exchange of the ready-wait to the first exchange of the poll. -/
theorem runs_sent (s : State) {index : Index} {arg : Word} {misses : List (Byte × Answer)} {w : Answer}
    {rest : List Answer} (hb : s.busy = true) (hm : s.micro = .readyXfer) (hr : s.readyCnt = 1)
    (hc : s.cmd = some ⟨index, arg⟩) (ha : s.answers = missAnswers misses ++ Answer.byteOf 0xFF :: w :: rest)
    (hw : w.fault = false) (hmiss : ∀ m ∈ misses, m.1 ≠ 0xFF) (hlen : misses.length < s.params.nReady)
    (hp : 0 < s.params.nResp) :
    runs (2 * misses.length + 3) s = .next { s with
      readyCnt := misses.length + 1, errCode := none, frame := frameOf index arg, crc := frameCrc index arg
      respCnt := 1, micro := .pollXfer, answers := rest
      trace := s.trace ++ missEvents s.params misses ++
        [.xfer s.params.placeholder (some 0xFF), .write (frameOf index arg).toList true] } := by
  let u : State := { s with
    readyCnt := s.readyCnt + misses.length, errCode := none, micro := .sendFrame, answers := w :: rest
    trace := s.trace ++ missEvents s.params misses ++ [.xfer s.params.placeholder (some 0xFF)] }
  have h1 : runs (2 * misses.length + 1) s = .next u := by
    rw [runs_ready misses s _ hb hm ha hmiss (by omega)]
    simp only [readyOk, hc, u]
  have h2 : step u = .next (sendCommand index arg u) := step_sendFrame (c := ⟨index, arg⟩) hb rfl hc
  have h3 : step (sendCommand index arg u) = startPoll { sendCommand index arg u with
      answers := rest, trace := u.trace ++ [.write (frameOf index arg).toList true] } := by
    rw [step_frameWrite (a := w) (rest := rest) rfl rfl rfl, hw]
    rfl
  have hn : ¬ 0 = s.params.nResp := by omega
  have h4 := runs_then_step h1 h2
  rw [show 2 * misses.length + 3 = 2 * misses.length + 1 + 1 + 1 by omega, runs_then h4, runs_single, h3]
  simp only [startPoll, pollAttempt, sendCommand, u, hn, if_false]
  simp [hr, hb, hc, Nat.add_comm]

/-- A byte other than the sentinel ends the poll. -/
theorem pollByte_status {s : State} {b : Byte} (hne : b ≠ sentinel) : pollByte b s = .next (statusByte b s) := by
  simp [pollByte, hne]

/-- From the first exchange of the poll to the complete response. -/
theorem runs_polled (s : State) {sh : Shape} {polls : Nat} {st : Byte} {q : Quad} {rest : List Answer}
    (hb : s.busy = true) (hm : s.micro = .pollXfer) (hr : s.respCnt = 1) (hs : s.shape = sh)
    (ha : s.answers = List.replicate polls (Answer.byteOf 0xFF) ++ Answer.byteOf st :: (echoAnswers (echoOf sh st q) ++ rest))
    (hp : polls < s.params.nResp) (hst : st ≠ 0xFF) :
    runs (polls + 1 + (if readsExtra sh st then 4 else 0)) s = .next { s with
      respCnt := polls + 1, status := st, extra := if readsExtra sh st then q else s.extra
      micro := .respond, answers := rest
      trace := s.trace ++ List.replicate polls (.xfer s.params.placeholder (some 0xFF)) ++
        [.xfer s.params.placeholder (some st)] ++ echoEvents s.params (echoOf sh st q) } := by
  subst hs
  let u : State := { s with
    respCnt := s.respCnt + polls, answers := Answer.byteOf st :: (echoAnswers (echoOf s.shape st q) ++ rest)
    trace := s.trace ++ List.replicate polls (.xfer s.params.placeholder (some 0xFF)) }
  let v : State := { u with
    answers := echoAnswers (echoOf s.shape st q) ++ rest, trace := u.trace ++ [.xfer s.params.placeholder (some st)] }
  have h1 : runs polls s = .next u := runs_sentinels polls s _ hb hm ha (by omega)
  have h2 : step u = .next (statusByte st v) := by
    rw [step_pollXfer (s := u) hb hm rfl]
    exact pollByte_status (s := v) hst
  have h12 := runs_then_step h1 h2
  cases hx : readsExtra s.shape st
  · simp only [Bool.false_eq_true, if_false, Nat.add_zero]
    rw [h12]
    simp [statusByte, hx, u, v, hr, echoOf, echoAnswers, echoEvents, Nat.add_comm]
  · simp only [if_true]
    rw [runs_then h12, runs_extra (statusByte st v) q rest (by simpa [statusByte, hx, u, v] using hb)
      (by simp [statusByte, hx, u, v]) (by simp [statusByte, hx, u, v, echoOf, echoAnswers])]
    simp [statusByte, hx, u, v, hr, echoOf, echoEvents, Nat.add_comm]

/-- How many steps an EXEC_CMD takes from its first exchange to its complete response. -/
def commandSteps (misses : List (Byte × Answer)) (polls : Nat) (sh : Shape) (st : Byte) : Nat :=
  2 * misses.length + 3 + (polls + 1 + (if readsExtra sh st then 4 else 0))

/-- From the first exchange of its ready-wait, EXEC_CMD comes to its complete response. -/
theorem runs_command (s : State) {index : Index} {arg : Word} {sh : Shape} {misses : List (Byte × Answer)} {w : Answer}
    {polls : Nat} {st : Byte} {q : Quad} {rest : List Answer} (hb : s.busy = true) (hm : s.micro = .readyXfer)
    (hr : s.readyCnt = 1) (hc : s.cmd = some ⟨index, arg⟩) (hs : s.shape = sh)
    (ha : s.answers = commandAnswers misses w polls st (echoOf sh st q) ++ rest) (hw : w.fault = false)
    (hmiss : ∀ m ∈ misses, m.1 ≠ 0xFF) (hlen : misses.length < s.params.nReady) (hp : polls < s.params.nResp)
    (hst : st ≠ 0xFF) :
    runs (commandSteps misses polls sh st) s =
      .next { s.received index arg sh misses polls st q rest with micro := .respond } := by
  have h1 := runs_sent s (rest := List.replicate polls (Answer.byteOf 0xFF) ++ Answer.byteOf st ::
    (echoAnswers (echoOf sh st q) ++ rest)) hb hm hr hc (by rw [ha]; simp [commandAnswers]) hw hmiss hlen (by omega)
  refine (runs_then h1).trans ((runs_polled _ (by exact hb) rfl rfl (by exact hs) rfl (by exact hp) hst).trans ?_)
  simp [State.received, commandEvents, hs]

/-- The complete response is validated: the error of its status byte is raised, or EXEC_CMD succeeds. -/
theorem runs_validated (s : State) {index : Index} {arg : Word} {sh : Shape} {misses : List (Byte × Answer)} {w : Answer}
    {polls : Nat} {st : Byte} {q : Quad} {rest : List Answer} (hb : s.busy = true) (hm : s.micro = .readyXfer)
    (hr : s.readyCnt = 1) (hc : s.cmd = some ⟨index, arg⟩) (hs : s.shape = sh)
    (ha : s.answers = commandAnswers misses w polls st (echoOf sh st q) ++ rest) (hw : w.fault = false)
    (hmiss : ∀ m ∈ misses, m.1 ≠ 0xFF) (hlen : misses.length < s.params.nReady) (hp : polls < s.params.nResp)
    (hst : st ≠ 0xFF) :
    runs (commandSteps misses polls sh st + 1) s =
      (match statusError st with
        | some k => raise (.commandRejected k) { s.received index arg sh misses polls st q rest with micro := .respond }
        | none => cmdOk ⟨st, echoOf sh st q⟩ { s.received index arg sh misses polls st q rest with micro := .respond }) := by
  rw [runs_then (runs_command s hb hm hr hc hs ha hw hmiss hlen hp hst)]
  rw [runs_single, step_respond (s := { s.received index arg sh misses polls st q rest with micro := .respond }) hb rfl hst]
  show receive st (if readsExtra sh st then some (if readsExtra sh st then q else s.extra) else none) _ = _
  cases hx : readsExtra sh st <;> cases he : statusError st <;> simp [receive, State.received, hx, he, echoOf]

end Sys2Proof.Machine
end

