-- ==== Sys2Proof/Laws/Invariant.lean ====
section
/-! SUPPORT. What each part of a step keeps of `CoreInv`: one lemma for each operation of Machine/Ops.lean, Handshake.lean and
Sequencer.lean, for the meanings of the requests, and for the two points where EXEC_CMD runs a frame or a response. -/

namespace Sys2Proof.Machine

theorem initOperands_eq {c : InitCmd} {s : State} {i : Index} {a : Word} {sh : Shape}
    (h : initOperands c s = some (i, a, sh)) : i = c.index s.params ∧ a = c.arg s.params s.version ∧ sh = c.shape := by
  cases c
  case sdSendOpCond =>
    simp only [initOperands, Option.map_eq_some_iff, Prod.mk.injEq] at h
    obtain ⟨v, hv, rfl, rfl, rfl⟩ := h
    refine ⟨rfl, ?_, rfl⟩
    simp only [opCondArg_eq, InitCmd.arg, hv]
    cases v <;> simp
  all_goals
    simp only [initOperands, Option.some.injEq, Prod.mk.injEq] at h
    obtain ⟨rfl, rfl, rfl⟩ := h
    first | exact ⟨rfl, rfl, rfl⟩ | exact ⟨rfl, ifCondArg_eq _ _, rfl⟩

/-- The part of `CoreInv` that every state has, running or at rest. -/
structure Bounds (s : State) : Prop where
  params : s.params.wf = true
  scopeLow : s.scopeOpen = true → s.csLevel = .low
  readyBound : s.readyCnt ≤ s.params.nReady
  respBound : s.respCnt ≤ s.params.nResp
  vpBound : s.vpCnt ≤ s.params.nVp
  ocBound : s.ocCnt ≤ s.params.nOc

theorem wf_bounds {p : Params} (h : p.wf = true) : 1 ≤ p.nReady ∧ 1 ≤ p.nResp ∧ 1 ≤ p.nVp ∧ 1 ≤ p.nOc := by
  simp only [Params.wf, Bool.and_eq_true, decide_eq_true_eq] at h; omega

theorem CoreInv.base {s} (h : CoreInv s) : Bounds s := ⟨h.params, h.scopeLow, h.readyBound, h.respBound, h.vpBound, h.ocBound⟩

theorem coreInv_busy {s} (b : Bounds s) (h : s.busy = true) (r : Running s) : CoreInv s :=
  ⟨b.params, by simp [h], fun _ => r, b.scopeLow, b.readyBound, b.respBound, b.vpBound, b.ocBound⟩

theorem coreInv_rest {s} (b : Bounds s) (h : s.busy = false) (r : AtRest s) : CoreInv s :=
  ⟨b.params, fun _ => r, by simp [h], b.scopeLow, b.readyBound, b.respBound, b.vpBound, b.ocBound⟩

/-- The invariant says nothing of the answers to come. -/
theorem CoreInv.with_answers {s} (h : CoreInv s) (l : List Answer) : CoreInv { s with answers := l } :=
  ⟨h.params, h.rest, h.running, h.scopeLow, h.readyBound, h.respBound, h.vpBound, h.ocBound⟩

/-- Nor of what the host offers. -/
theorem CoreInv.with_host {s} (h : CoreInv s) (l : List HostInput) : CoreInv { s with host := l } :=
  ⟨h.params, h.rest, h.running, h.scopeLow, h.readyBound, h.respBound, h.vpBound, h.ocBound⟩

/-- What holds while a stage of INIT has control. -/
structure InInit (s : State) : Prop extends Bounds s where
  busy : s.busy = true
  owned : s.owned = true
  errCode : s.errCode = none

theorem abortInit_inv {e s} (b : Bounds s) (hs : s.scopeOpen = false) : CoreInv (abortInit e s) := by
  apply coreInv_rest
  · exact ⟨b.params, by simp [abortInit, endOp, hs], b.readyBound, b.respBound, b.vpBound, b.ocBound⟩
  · rfl
  · simp [AtRest, abortInit, endOp, hs, Stage.atRest]

theorem initRaise_inv {e s c} (b : InInit s) (hop : s.op = .init c) (he : e.isEcho = false)
    (h1 : s.scopeOpen = true → s.params.csScope = .wholeHandshake)
    (h2 : s.scopeOpen = true → s.state.atRest = false ∧ s.state ≠ .powerUp) : CoreInv (initRaise e s) := by
  unfold initRaise
  split
  · next ho =>
    apply coreInv_busy
    · exact ⟨b.params, b.scopeLow, b.readyBound, b.respBound, b.vpBound, b.ocBound⟩
    · exact b.busy
    · simp only [Running, hop, InitPoint, b.owned, b.errCode, and_true, ho, h1 ho, true_and]
      refine ⟨?_, (h2 ho).1, (h2 ho).2, by simp⟩
      intro e' h; cases h; exact he
  · next ho => exact abortInit_inv b.toBounds (by simpa using ho)

theorem runCmd_inv {c s t} (b : InInit s) (h : runCmd c s = .next t) (hop : s.op = .init c) (hst : s.state = c.stage)
    (hv : c.versionOk s.version) (ho : s.scopeOpen = true) : CoreInv t := by
  have wb := wf_bounds b.params
  obtain ⟨⟨i, a, sh⟩, heq, h⟩ := readClass_next h
  cases h
  obtain ⟨rfl, rfl, rfl⟩ := initOperands_eq heq
  apply coreInv_busy
  · exact ⟨b.params, b.scopeLow, wb.1, b.respBound, b.vpBound, b.ocBound⟩
  · exact b.busy
  · simp [Running, beginExecCmd, startReady, readyAttempt, hop, InitPoint, CommandPoint, b.owned, b.errCode, ho, hst, hv, wb.1]

theorem startCmd_inv {c s t} (b : InInit s) (h : startCmd c s = .next t) (hst : s.state = c.stage)
    (hv : c.versionOk s.version) (ho : s.scopeOpen = true ↔ s.params.csScope = .wholeHandshake) : CoreInv t := by
  unfold startCmd at h
  split at h
  · next hs =>
    refine runCmd_inv (s := {s with op := .init c}) ?_ h rfl hst hv (ho.2 hs)
    exact ⟨⟨b.params, b.scopeLow, b.readyBound, b.respBound, b.vpBound, b.ocBound⟩, b.busy, b.owned, b.errCode⟩
  · next hs =>
    cases h
    have : s.scopeOpen = false := by
      cases hh : s.scopeOpen; rfl; rw [ho.1 hh] at hs; cases hs
    apply coreInv_busy
    · exact ⟨b.params, b.scopeLow, b.readyBound, b.respBound, b.vpBound, b.ocBound⟩
    · exact b.busy
    · simp [Running, InitPoint, b.owned, b.errCode, this, hv, hs, hst]

theorem versionAttempt_inv {s t c} (b : InInit s) (hop : s.op = .init c) (h : versionAttempt s = .next t) (hst : s.state = .versionProbe)
    (hv : s.version = none) (ho : s.scopeOpen = true ↔ s.params.csScope = .wholeHandshake) : CoreInv t := by
  unfold versionAttempt at h
  split at h
  · cases h; exact initRaise_inv b hop rfl ho.1 (by simp [hst, Stage.atRest])
  · next hne =>
    refine startCmd_inv (s := {s with vpCnt := s.vpCnt + 1}) ?_ h hst hv ho
    exact ⟨⟨b.params, b.scopeLow, b.readyBound, b.respBound, by have := b.vpBound; show s.vpCnt + 1 ≤ s.params.nVp; omega, b.ocBound⟩, b.busy, b.owned, b.errCode⟩

theorem opCondIteration_inv {s t c} (b : InInit s) (hop : s.op = .init c) (h : opCondIteration s = .next t) (hst : s.state = .opCondWait)
    (hv : s.version.isSome = true) (ho : s.scopeOpen = true ↔ s.params.csScope = .wholeHandshake) : CoreInv t := by
  unfold opCondIteration at h
  split at h
  · cases h; exact initRaise_inv b hop rfl ho.1 (by simp [hst, Stage.atRest])
  · next hne =>
    refine startCmd_inv (s := {s with ocCnt := s.ocCnt + 1}) ?_ h hst hv ho
    exact ⟨⟨b.params, b.scopeLow, b.readyBound, b.respBound, b.vpBound, by have := b.ocBound; show s.ocCnt + 1 ≤ s.params.nOc; omega⟩, b.busy, b.owned, b.errCode⟩

theorem endStages_inv {s c} (b : InInit s) (hop : s.op = .init c) (hst : s.state = .capacityProbe) (hc : s.capacity.isSome = true)
    (ho : s.scopeOpen = true ↔ s.params.csScope = .wholeHandshake) : CoreInv (endStages s) := by
  unfold endStages
  split
  · next hs =>
    apply coreInv_busy
    · exact ⟨b.params, b.scopeLow, b.readyBound, b.respBound, b.vpBound, b.ocBound⟩
    · exact b.busy
    · simp [Running, InitPoint, hop, b.owned, b.errCode, ho.2 hs, hs, hst, hc, Stage.atRest]
  · next hs =>
    have : s.scopeOpen = false := by
      cases hh : s.scopeOpen; rfl; rw [ho.1 hh] at hs; cases hs
    apply coreInv_busy
    · exact ⟨b.params, b.scopeLow, b.readyBound, b.respBound, b.vpBound, b.ocBound⟩
    · exact b.busy
    · simp [Running, InitPoint, hop, b.owned, b.errCode, this, hst, hc]

theorem enterCrcEnable_inv {s t v} (b : InInit s) (h : enterCrcEnable v s = .next t)
    (ho : s.scopeOpen = true ↔ s.params.csScope = .wholeHandshake) : CoreInv t :=
  startCmd_inv (s := { s with version := some v, state := .crcEnable })
    ⟨⟨b.params, b.scopeLow, b.readyBound, b.respBound, b.vpBound, b.ocBound⟩, b.busy, b.owned, b.errCode⟩ h rfl (by simp [InitCmd.versionOk]) ho

theorem stageErr_inv {c e s t} (b : InInit s) (hop : s.op = .init c) (he : e.isEcho = false) (h : stageErr c e s = .next t)
    (ho : s.scopeOpen = true ↔ s.params.csScope = .wholeHandshake) (hst : s.state = c.stage) : CoreInv t := by
  unfold stageErr at h
  split at h
  · exact enterCrcEnable_inv b h ho
  · cases h
    exact initRaise_inv b hop he ho.1 (by rw [hst]; cases c <;> simp [InitCmd.stage, Stage.atRest])

theorem stageOk_inv {c s t} (b : InInit s) (hop : s.op = .init c) (h : stageOk c s = .next t)
    (ho : s.scopeOpen = true ↔ s.params.csScope = .wholeHandshake) (hst : s.state = c.stage) (hv : c.versionOk s.version) : CoreInv t := by
  unfold stageOk at h
  cases c <;> simp only at h
  · refine versionAttempt_inv (s := { s with state := .versionProbe, vpCnt := 0 }) (c := .goIdle) ?_ hop h rfl hv ho
    exact ⟨⟨b.params, b.scopeLow, b.readyBound, b.respBound, Nat.zero_le _, b.ocBound⟩, b.busy, b.owned, b.errCode⟩
  · unfold judgeEcho at h
    split at h
    · refine enterCrcEnable_inv (s := {s with errCode := none}) ?_ h ho
      exact ⟨⟨b.params, b.scopeLow, b.readyBound, b.respBound, b.vpBound, b.ocBound⟩, b.busy, b.owned, rfl⟩
    · exact versionAttempt_inv b hop h hst hv ho
  · refine opCondIteration_inv (s := { s with state := .opCondWait, ocCnt := 0 }) (c := .crcOnOff) ?_ hop h rfl hv ho
    exact ⟨⟨b.params, b.scopeLow, b.readyBound, b.respBound, b.vpBound, Nat.zero_le _⟩, b.busy, b.owned, b.errCode⟩
  · exact startCmd_inv b h hst hv ho
  · unfold judgeIdle at h
    split at h
    · cases h
      apply coreInv_busy
      · exact ⟨b.params, b.scopeLow, b.readyBound, b.respBound, b.vpBound, b.ocBound⟩
      · exact b.busy
      · simp [Running, InitPoint, hop, b.owned, b.errCode]; exact ⟨hst, hv, ho⟩
    · obtain ⟨v, hv2, h⟩ := readClass_next h
      cases v
      · cases h
        refine endStages_inv (s := { s with state := .capacityProbe, capacity := some .standard }) (c := .sdSendOpCond) ?_ hop rfl rfl ho
        exact ⟨⟨b.params, b.scopeLow, b.readyBound, b.respBound, b.vpBound, b.ocBound⟩, b.busy, b.owned, b.errCode⟩
      · refine startCmd_inv (s := { s with state := .capacityProbe }) ?_ h rfl hv2 ho
        exact ⟨⟨b.params, b.scopeLow, b.readyBound, b.respBound, b.vpBound, b.ocBound⟩, b.busy, b.owned, b.errCode⟩
  · cases h
    refine endStages_inv (s := { s with capacity := some (capacityFromOcr s.extra), errCode := none }) (c := .readOcr) ?_ hop hst rfl ho
    exact ⟨⟨b.params, b.scopeLow, b.readyBound, b.respBound, b.vpBound, b.ocBound⟩, b.busy, b.owned, rfl⟩

/-- What holds of the operation that runs a command, wherever in the command it is. -/
def InCommand (s : State) : Prop :=
  match s.op with
  | .none => False
  | .waitReady => s.cmd = none ∧ s.scopeOpen = false ∧ s.owned = false ∧ s.state.atRest = true
  | .execCmd => s.cmd.isSome = true ∧ s.scopeOpen = false ∧ s.owned = false ∧ s.state.atRest = true
  | .withCsLow _ _ => s.scopeOpen = true ∧ s.owned = false ∧ s.state.atRest = true
  | .init c => s.owned = true ∧ s.errCode = none ∧ s.scopeOpen = true ∧ s.cmd = some ⟨c.index s.params, c.arg s.params s.version⟩ ∧ s.state = c.stage ∧ c.versionOk s.version ∧ s.shape = c.shape

theorem ctx_running {s} (h : InCommand s) (hc : CommandPoint s) : Running s := by
  unfold InCommand at h
  unfold Running
  cases ho : s.op with
  | none => simp only [ho] at h
  | waitReady => simp only [ho] at h; exact ⟨hc, h⟩
  | execCmd => simp only [ho] at h; exact ⟨hc, h⟩
  | withCsLow r d =>
    simp only [ho] at h
    simp only [ScopePoint]
    refine ⟨?_, h.2⟩
    split
    · next hh => simp [CommandPoint, hh] at hc
    · next hh => simp [CommandPoint, hh] at hc
    · exact ⟨hc, h.1⟩
  | init c =>
    simp only [ho] at h
    simp only [InitPoint]
    refine ⟨?_, h.1, h.2.1⟩
    split
    all_goals first | (next hh => simp [CommandPoint, hh] at hc; done) | exact ⟨hc, h.2.2⟩

theorem running_ctx {s} (h : Running s) (hm : CommandPoint s) : InCommand s := by
  unfold Running at h
  unfold InCommand
  cases ho : s.op with
  | none => simp only [ho] at h
  | waitReady => simp only [ho] at h; exact h.2
  | execCmd => simp only [ho] at h; exact h.2
  | withCsLow r d =>
    simp only [ho] at h
    unfold ScopePoint at h
    split at h
    · next hh => simp [CommandPoint, hh] at hm
    · next hh => simp [CommandPoint, hh] at hm
    · exact ⟨h.1.2, h.2⟩
  | init c =>
    simp only [ho] at h
    unfold InitPoint at h
    split at h
    all_goals first | (next hh => simp [CommandPoint, hh] at hm; done) | exact ⟨h.2.1, h.2.2, h.1.2⟩

/-- The points inside `wait_ready` and `exec_cmd`. -/
def Micro.isCommand : Micro → Bool
  | .readyXfer | .readyDelay | .sendFrame | .frameWrite | .pollXfer | .extraXfer _ | .respond => true
  | _ => false

theorem running_cp {s} (h : Running s) (hm : Micro.isCommand s.micro = true) : CommandPoint s := by
  unfold Running at h
  split at h
  · exact h.elim
  · exact h.1
  · exact h.1
  · unfold ScopePoint at h; split at h
    · next hh => simp [hh, Micro.isCommand] at hm
    · next hh => simp [hh, Micro.isCommand] at hm
    · exact h.1.1
  · unfold InitPoint at h; split at h
    all_goals first | (next hh => simp [hh, Micro.isCommand] at hm; done) | exact h.1.1

theorem raise_inv {e s t} (b : Bounds s) (hb : s.busy = true) (hc : InCommand s) (he : e.isEcho = false) (h : raise e s = .next t) : CoreInv t := by
  unfold raise at h
  unfold InCommand at hc
  split at h
  · next ho => simp [ho] at hc
  · next ho => 
    simp only [ho] at hc; cases h
    apply coreInv_rest
    · exact ⟨b.params, b.scopeLow, b.readyBound, b.respBound, b.vpBound, b.ocBound⟩
    · rfl
    · simp [AtRest, failOp, endOp]; exact hc.2
  · next ho => 
    simp only [ho] at hc; cases h
    apply coreInv_rest
    · exact ⟨b.params, b.scopeLow, b.readyBound, b.respBound, b.vpBound, b.ocBound⟩
    · rfl
    · simp [AtRest, failOp, endOp]; exact hc.2
  · next r d ho =>
    simp only [ho] at hc; cases h
    apply coreInv_busy
    · exact ⟨b.params, b.scopeLow, b.readyBound, b.respBound, b.vpBound, b.ocBound⟩
    · exact hb
    · simp [Running, ho, ScopePoint]; exact hc
  · next c ho =>
    simp only [ho] at hc
    obtain ⟨h1, h2, h3, h4, h5, h6, h7⟩ := hc
    split at h
    · next hs => exact stageErr_inv ⟨b, hb, h1, h2⟩ ho he h (by simp [h3, hs]) h5
    · next hs =>
      cases h
      apply coreInv_busy
      · exact ⟨b.params, b.scopeLow, b.readyBound, b.respBound, b.vpBound, b.ocBound⟩
      · exact hb
      · simp [Running, ho, InitPoint, h1, h2, h3, hs, h5, h6]; exact he

theorem base_of_eq {s t : State} (b : Bounds s) (hp : t.params = s.params) (hs : t.scopeOpen = true → t.csLevel = .low)
  (h1 : t.readyCnt ≤ s.params.nReady) (h2 : t.respCnt ≤ s.params.nResp) (h3 : t.vpCnt ≤ s.params.nVp) (h4 : t.ocCnt ≤ s.params.nOc) : Bounds t :=
 ⟨hp ▸ b.params, hs, hp ▸ h1, hp ▸ h2, hp ▸ h3, hp ▸ h4⟩

theorem nextElem_inv {body done} {s : State} (b : Bounds s) (hb : s.busy = true) (ho : s.scopeOpen = true) (hw : s.owned = false) (hr : s.state.atRest = true) :
    CoreInv (nextElem body done s) := by
  have wb := wf_bounds b.params
  unfold nextElem
  split
  · apply coreInv_busy
    · exact ⟨b.params, b.scopeLow, b.readyBound, b.respBound, b.vpBound, b.ocBound⟩
    · exact hb
    · simp [Running, ScopePoint, ho, hw, hr]
  · apply coreInv_busy
    · exact ⟨b.params, b.scopeLow, wb.1, b.respBound, b.vpBound, b.ocBound⟩
    · exact hb
    · simp [Running, beginWaitReady, startReady, readyAttempt, ScopePoint, CommandPoint, ho, hw, hr, wb.1]
  · apply coreInv_busy
    · exact ⟨b.params, b.scopeLow, wb.1, b.respBound, b.vpBound, b.ocBound⟩
    · exact hb
    · simp [Running, beginExecCmd, startReady, readyAttempt, ScopePoint, CommandPoint, ho, hw, hr, wb.1]

theorem returnOk_inv {d} {s : State} (b : Bounds s) (ho : s.scopeOpen = false) (hw : s.owned = false) (hr : s.state.atRest = true) : CoreInv (returnOk d s) := by
  apply coreInv_rest
  · exact ⟨b.params, b.scopeLow, b.readyBound, b.respBound, b.vpBound, b.ocBound⟩
  · rfl
  · simp [AtRest, returnOk, endOp, ho, hw, hr]

theorem failOp_inv {d} {s : State} (b : Bounds s) (ho : s.scopeOpen = false) (hw : s.owned = false) (hr : s.state.atRest = true) : CoreInv (failOp d s) := by
  apply coreInv_rest
  · exact ⟨b.params, b.scopeLow, b.readyBound, b.respBound, b.vpBound, b.ocBound⟩
  · rfl
  · simp [AtRest, failOp, endOp, ho, hw, hr]

theorem cmdOk_inv {r s t} (b : Bounds s) (hb : s.busy = true) (hc : InCommand s)
   (h : cmdOk r s = .next t) : CoreInv t := by
  unfold cmdOk at h
  unfold InCommand at hc
  split at h
  · next ho => simp [ho] at hc
  · next ho => simp only [ho] at hc; cases h; exact returnOk_inv b hc.2.1 hc.2.2.1 hc.2.2.2
  · next ho => simp only [ho] at hc; cases h; exact returnOk_inv b hc.2.1 hc.2.2.1 hc.2.2.2
  · next r d ho =>
    simp only [ho] at hc; cases h
    exact nextElem_inv b hb hc.1 hc.2.1 hc.2.2
  · next c ho =>
    simp only [ho] at hc
    obtain ⟨h1, h2, h3, h4, h5, h6, h7⟩ := hc
    split at h
    · next hs => exact stageOk_inv ⟨b, hb, h1, h2⟩ ho h (by simp [h3, hs]) h5 h6
    · next hs =>
      cases h
      apply coreInv_busy
      · exact ⟨b.params, b.scopeLow, b.readyBound, b.respBound, b.vpBound, b.ocBound⟩
      · exact hb
      · simp [Running, ho, InitPoint, h1, h2, h3, hs, h5, h6]

theorem readyOk_inv {s} (b : Bounds s) (hb : s.busy = true) (hc : InCommand s) : CoreInv (readyOk s) := by
  unfold readyOk
  split
  · next hcm =>
    unfold plainReadyOk
    have b' : Bounds {s with errCode := none} := ⟨b.params, b.scopeLow, b.readyBound, b.respBound, b.vpBound, b.ocBound⟩
    unfold InCommand at hc
    split
    · next r d ho => 
      have ho : s.op = .withCsLow r d := ho
      simp only [ho] at hc
      exact nextElem_inv b' hb hc.1 hc.2.1 hc.2.2
    · next hno =>
      have hno : ∀ r d, s.op ≠ .withCsLow r d := hno
      have : s.scopeOpen = false ∧ s.owned = false ∧ s.state.atRest = true := by
        cases ho : s.op <;> simp only [ho] at hc
        · exact hc.2
        · exact hc.2
        · next r d => exact absurd ho (hno r d)
        · next c => simp [hcm] at hc
      exact returnOk_inv b' this.1 this.2.1 this.2.2
  · next c hcm =>
    apply coreInv_busy
    · exact ⟨b.params, b.scopeLow, b.readyBound, b.respBound, b.vpBound, b.ocBound⟩
    · exact hb
    · apply ctx_running
      · unfold InCommand at hc ⊢; cases ho : s.op <;> simp only [ho] at hc <;> simp_all
      · simp [CommandPoint, hcm]

theorem pollAttempt_inv {s t} (b : Bounds s) (hb : s.busy = true) (hc : InCommand s) (h1 : s.cmd.isSome = true) (h : pollAttempt s = .next t) : CoreInv t := by
  unfold pollAttempt at h
  split at h
  · exact raise_inv b hb hc rfl h
  · cases h
    have := b.respBound
    apply coreInv_busy
    · exact ⟨b.params, b.scopeLow, b.readyBound, by show s.respCnt + 1 ≤ s.params.nResp; omega, b.vpBound, b.ocBound⟩
    · exact hb
    · apply ctx_running
      · exact hc
      · simp [CommandPoint, h1]; omega

theorem receive_inv {st ex s t} (b : Bounds s) (hb : s.busy = true) (hc : InCommand s) (h : receive st ex s = .next t) :
    CoreInv t := by
  unfold receive at h
  simp only at h
  have ctx' : ∀ x, InCommand { s with status := st, extra := x } := fun x => hc
  have ctx'' : ∀ x, InCommand { s with status := st, extra := x, errCode := none } := by
    intro x; unfold InCommand at hc ⊢; cases ho : s.op <;> simp only [ho] at hc <;> simp_all
  split at h
  · exact raise_inv (s := { s with status := st, extra := _ })
      ⟨b.params, b.scopeLow, b.readyBound, b.respBound, b.vpBound, b.ocBound⟩ hb (ctx' _) rfl h
  · exact cmdOk_inv (s := { s with status := st, extra := _, errCode := none })
      ⟨b.params, b.scopeLow, b.readyBound, b.respBound, b.vpBound, b.ocBound⟩ hb (ctx'' _) h

theorem csLow_inv {f s t} (hi : CoreInv s) (hb : s.busy = true) (hm : s.micro = .csLow) (h : csLowAnswered f s = .next t) : CoreInv t := by
  have b := (CoreInv.base hi)
  have hr := hi.running hb
  unfold csLowAnswered at h
  cases f <;> simp [csAfter] at h
  · -- ok
    unfold Running at hr
    split at h
    · next r d ho =>
      have ho : s.op = .withCsLow r d := ho
      simp only [ho, ScopePoint, hm] at hr
      cases h
      exact nextElem_inv ⟨b.params, fun _ => rfl, b.readyBound, b.respBound, b.vpBound, b.ocBound⟩ hb rfl hr.2.1 hr.2.2
    · next c ho =>
      have ho : s.op = .init c := ho
      simp only [ho, InitPoint, hm] at hr
      obtain ⟨⟨h1, h2, h3⟩, h4, h5⟩ := hr
      split at h
      · next hs =>
        have hs : s.params.csScope = .wholeHandshake := hs
        simp only [hs] at h3
        obtain ⟨rfl, h6⟩ := h3
        refine startCmd_inv ?_ h rfl h2 ?_
        · exact ⟨⟨b.params, fun _ => rfl, b.readyBound, b.respBound, b.vpBound, b.ocBound⟩, hb, h4, h5⟩
        · simp [hs]
      · next hs =>
        have hs : s.params.csScope = .perCommand := hs
        simp only [hs] at h3
        exact runCmd_inv (s := {s with csLevel := .low, scopeOpen := true}) ⟨⟨b.params, fun _ => rfl, b.readyBound, b.respBound, b.vpBound, b.ocBound⟩, hb, h4, h5⟩ h ho h3 h2 rfl
    · next h1 h2 =>
      cases ho : s.op <;> simp only [ho] at hr
      · simp [CommandPoint, hm] at hr
      · simp [CommandPoint, hm] at hr
      · next r d => exact absurd ho (h1 r d)
      · next c => exact absurd ho (h2 c)
  · unfold Running at hr
    split at h
    · next c ho =>
      have ho : s.op = .init c := ho
      simp only [ho, InitPoint, hm] at hr
      obtain ⟨⟨h1, h2, h3⟩, h4, h5⟩ := hr
      split at h
      · next hs => 
        cases h
        refine initRaise_inv (c := c) ⟨⟨b.params, ?_, b.readyBound, b.respBound, b.vpBound, b.ocBound⟩, hb, h4, h5⟩ ho rfl ?_ ?_ <;> simp [h1]
      · next hs =>
        have hs : s.params.csScope = .perCommand := hs
        simp only [hs] at h3
        refine stageErr_inv (s := {s with csLevel := .unknown}) (c := c) ⟨⟨b.params, ?_, b.readyBound, b.respBound, b.vpBound, b.ocBound⟩, hb, h4, h5⟩ ho (e := .chipSelectFault) rfl h ?_ h3 <;> simp [h1, hs]
    · next h1 =>
      cases h
      cases ho : s.op <;> simp only [ho] at hr
      · simp [CommandPoint, hm] at hr
      · simp [CommandPoint, hm] at hr
      · simp only [ScopePoint, hm] at hr
        exact failOp_inv ⟨b.params, by simp [hr.1.1], b.readyBound, b.respBound, b.vpBound, b.ocBound⟩ hr.1.1 hr.2.1 hr.2.2
      · next c => exact absurd ho (h1 c)

theorem csHigh_inv {f s t e} (hi : CoreInv s) (hb : s.busy = true) (hm : s.micro = .csHigh e) (h : csHighAnswered e f s = .next t) : CoreInv t := by
  have b := (CoreInv.base hi)
  have hr := hi.running hb
  unfold csHighAnswered at h
  simp only at h
  have b' : ∀ l, Bounds {s with csLevel := l, scopeOpen := false} := fun l => ⟨b.params, by simp, b.readyBound, b.respBound, b.vpBound, b.ocBound⟩
  unfold Running at hr
  split at h
  · next r d ho he =>
    simp only [ho, ScopePoint, hm] at hr
    cases h; exact returnOk_inv (b' _) rfl hr.2.1 hr.2.2
  · next c ho he =>
    simp only [ho, InitPoint, hm] at hr
    obtain ⟨⟨h1, h2, h3⟩, h4, h5⟩ := hr
    have hen : e = none := by cases e <;> simp [scopeError] at he ⊢
    split at h
    · next hs =>
      have hs : s.params.csScope = .wholeHandshake := hs
      simp only [hs, hen] at h3
      cases h
      apply coreInv_busy
      · exact ⟨b.params, by simp, b.readyBound, b.respBound, b.vpBound, b.ocBound⟩
      · exact hb
      · simp [Running, ho, InitPoint, h4, h5]; exact h3.2.2 trivial
    · next hs =>
      have hs : s.params.csScope = .perCommand := hs
      simp only [hs] at h3
      exact stageOk_inv (c := c) ⟨b' _, hb, h4, h5⟩ ho h (by simp [hs]) h3.1 h3.2
  · next c e' ho he =>
    simp only [ho, InitPoint, hm] at hr
    obtain ⟨⟨h1, h2, h3⟩, h4, h5⟩ := hr
    have hee : e'.isEcho = false := by
      cases e <;> simp [scopeError] at he
      · obtain ⟨_, rfl⟩ := he; rfl
      · subst he; exact h2 _ rfl
    split at h
    · cases h; exact abortInit_inv (b' _) rfl
    · next hs =>
      have hs : s.params.csScope = .perCommand := hs
      simp only [hs] at h3
      exact stageErr_inv (c := c) ⟨b' _, hb, h4, h5⟩ ho hee h (by simp [hs]) h3.1
  · next h1 =>
    cases h
    have : s.owned = false ∧ s.state.atRest = true := by
      cases ho : s.op <;> simp only [ho] at hr
      · simp [CommandPoint, hm] at hr
      · simp [CommandPoint, hm] at hr
      · simp only [ScopePoint, hm] at hr; exact hr.2
      · next c => exact absurd ho (h1 c)
    exact failOp_inv (b' _) rfl this.1 this.2
  · next h1 h2 =>
    cases h
    exfalso
    cases ho : s.op <;> simp only [ho] at hr
    · simp [CommandPoint, hm] at hr
    · simp [CommandPoint, hm] at hr
    · next r d => exact h1 r d ho
    · next c => exact h2 c ho

theorem logEvent_inv {s e} (h : CoreInv s) : CoreInv (logEvent e s) := ⟨h.params, h.rest, h.running, h.scopeLow, h.readyBound, h.respBound, h.vpBound, h.ocBound⟩

theorem init_of_micro {s} (h : Running s) (hm : Micro.isCommand s.micro = false) (h1 : s.micro ≠ .csLow) (h2 : ∀ e, s.micro ≠ .csHigh e) :
    ∃ c, s.op = .init c ∧ InitPoint c s ∧ s.owned = true ∧ s.errCode = none := by
  have hcp : ¬ CommandPoint s := by
    intro h; unfold CommandPoint at h; split at h <;> simp_all [Micro.isCommand]
  unfold Running at h
  split at h
  · exact h.elim
  · exact absurd h.1 hcp
  · exact absurd h.1 hcp
  · unfold ScopePoint at h; split at h
    · next hh => exact absurd hh h1
    · next hh => exact absurd hh (h2 _)
    · exact absurd h.1.1 hcp
  · next c ho => exact ⟨c, ho, h⟩

theorem resume_inv {a s t} (hi : CoreInv s) (hb : s.busy = true) (h : resume a s = .next t) : CoreInv t := by
  unfold resume at h
  split at h
  · cases h; exact hi
  next call hcall =>
  simp only at h
  generalize hs' : logEvent (call.event a) s = s' at h
  have hi' : CoreInv s' := hs' ▸ logEvent_inv hi
  have hb' : s'.busy = true := by subst hs'; exact hb
  have hmm : s.micro = s'.micro := by subst hs'; rfl
  clear hs' hcall hi hb
  have b := (CoreInv.base hi')
  have hr := hi'.running hb'
  have e : (logEvent (call.event a) s).micro = s.micro := rfl
  split at h
  · next hm =>
    have cp := running_cp hr (by rw [hm]; rfl)
    have cx := running_ctx hr cp
    simp only [CommandPoint, hm] at cp
    split at h
    · exact raise_inv b hb' cx rfl h
    · unfold readyByte at h
      split at h
      · cases h; exact readyOk_inv b hb' cx
      · split at h
        · exact raise_inv b hb' cx rfl h
        · cases h
          apply coreInv_busy
          · exact ⟨b.params, b.scopeLow, b.readyBound, b.respBound, b.vpBound, b.ocBound⟩
          · exact hb'
          · exact ctx_running cx (by simp [CommandPoint, cp.1]; omega)
  · next hm =>
    have cp := running_cp hr (by rw [hm]; rfl)
    have cx := running_ctx hr cp
    simp only [CommandPoint, hm] at cp
    cases h
    apply coreInv_busy
    · exact ⟨b.params, b.scopeLow, cp.2, b.respBound, b.vpBound, b.ocBound⟩
    · exact hb'
    · exact ctx_running cx (by simp [readyAttempt, CommandPoint]; omega)
  · next hm =>
    have cp := running_cp hr (by rw [hm]; rfl)
    have cx := running_ctx hr cp
    simp only [CommandPoint, hm] at cp
    split at h
    · exact raise_inv b hb' cx rfl h
    · obtain ⟨c, hc, _⟩ := cp
      exact pollAttempt_inv (s := {s' with respCnt := 0}) ⟨b.params, b.scopeLow, b.readyBound, Nat.zero_le _, b.vpBound, b.ocBound⟩ hb' cx (by simp [hc]) h
  · next hm =>
    have cp := running_cp hr (by rw [hm]; rfl)
    have cx := running_ctx hr cp
    simp only [CommandPoint, hm] at cp
    split at h
    · exact raise_inv b hb' cx rfl h
    · unfold pollByte at h
      split at h
      · exact pollAttempt_inv b hb' cx cp.1 h
      · next hne =>
        cases h
        unfold statusByte
        simp only
        split
        · next hre =>
          apply coreInv_busy
          · exact ⟨b.params, b.scopeLow, b.readyBound, b.respBound, b.vpBound, b.ocBound⟩
          · exact hb'
          · exact ctx_running cx (by simp [CommandPoint, cp.1]; exact ⟨hne, hre⟩)
        · next hre =>
          apply coreInv_busy
          · exact ⟨b.params, b.scopeLow, b.readyBound, b.respBound, b.vpBound, b.ocBound⟩
          · exact hb'
          · exact ctx_running cx (by simp [CommandPoint, cp.1]; exact hne)
  · next k hm =>
    have cp := running_cp hr (by rw [hm]; rfl)
    have cx := running_ctx hr cp
    simp only [CommandPoint, hm] at cp
    split at h
    · exact raise_inv b hb' cx rfl h
    · cases h
      unfold extraByte
      simp only
      split
      all_goals
        apply coreInv_busy
        · exact ⟨b.params, b.scopeLow, b.readyBound, b.respBound, b.vpBound, b.ocBound⟩
        · exact hb'
        · exact ctx_running cx (by simp [CommandPoint, cp])
  · next hm => exact csLow_inv hi' hb' hm.symm.symm h
  · next e' hm => exact csHigh_inv hi' hb' hm h
  · next hm =>
    obtain ⟨c, ho, hr⟩ := init_of_micro hr (by rw [hm]; rfl) (by simp [hm]) (by simp [hm])
    simp only [InitPoint, hm] at hr
    cases h
    apply coreInv_busy
    · exact ⟨b.params, b.scopeLow, b.readyBound, b.respBound, b.vpBound, b.ocBound⟩
    · exact hb'
    · simp only [Running, ho, InitPoint]
      exact ⟨⟨hr.1.1, hr.1.2.1, hr.1.2.2.1, hr.1.2.2.2.1, fun h => by cases h⟩, hr.2⟩
  · next hm =>
    obtain ⟨c, ho, hr⟩ := init_of_micro hr (by rw [hm]; rfl) (by simp [hm]) (by simp [hm])
    simp only [InitPoint, hm] at hr
    cases h
    unfold powerUpCsAnswered
    simp only
    obtain ⟨⟨h1, h2, h3, h4, -⟩, h5, h6⟩ := hr
    cases hf : a.fault <;> simp only [Bool.false_eq_true, if_false, if_true]
    · apply coreInv_busy
      · exact ⟨b.params, by simp [h3], b.readyBound, b.respBound, b.vpBound, b.ocBound⟩
      · exact hb'
      · simp only [Running, ho, InitPoint]; exact ⟨⟨h1, h2, h3, h4, fun _ => rfl⟩, h5, h6⟩
    · refine initRaise_inv (c := c) ⟨⟨b.params, ?_, b.readyBound, b.respBound, b.vpBound, b.ocBound⟩, hb', h5, h6⟩ ho rfl ?_ ?_ <;> simp [h3]
  · next hm =>
    obtain ⟨c, ho, hr⟩ := init_of_micro hr (by rw [hm]; rfl) (by simp [hm]) (by simp [hm])
    simp only [InitPoint, hm] at hr
    obtain ⟨⟨rfl, h2, h3, h4, -⟩, h5, h6⟩ := hr
    unfold powerUpWritten at h
    split at h
    · cases h
      refine initRaise_inv (c := .goIdle) ⟨⟨b.params, b.scopeLow, b.readyBound, b.respBound, b.vpBound, b.ocBound⟩, hb', h5, h6⟩ ho rfl ?_ ?_ <;> simp [h3]
    · split at h
      · next hs =>
        cases h
        apply coreInv_busy
        · exact ⟨b.params, by simp [h3], b.readyBound, b.respBound, b.vpBound, b.ocBound⟩
        · exact hb'
        · simp [Running, ho, InitPoint, h2, h3, h4, h5, h6, hs, InitCmd.versionOk]
      · next hs =>
        refine startCmd_inv (s := {s' with state := .idle}) ⟨⟨b.params, b.scopeLow, b.readyBound, b.respBound, b.vpBound, b.ocBound⟩, hb', h5, h6⟩ h rfl h4 (by simp [h3, hs])
  · next hm =>
    obtain ⟨c, ho, hr⟩ := init_of_micro hr (by rw [hm]; rfl) (by simp [hm]) (by simp [hm])
    simp only [InitPoint, hm] at hr
    obtain ⟨⟨rfl, h2, h3, h4⟩, h5, h6⟩ := hr
    exact opCondIteration_inv ⟨⟨b.params, b.scopeLow, b.readyBound, b.respBound, b.vpBound, b.ocBound⟩, hb', h5, h6⟩ ho h h2 h3 h4
  all_goals (cases h; exact hi')

theorem sendFrame_inv {s t c} (hi : CoreInv s) (hb : s.busy = true) (hm : s.micro = .sendFrame) (hc : s.cmd = some c)
    (h : exec (commandOf s.params c.index c.arg) s = .next t) : CoreInv t := by
  have b := (CoreInv.base hi)
  have hr := hi.running hb
  have cp := running_cp hr (by rw [hm]; rfl)
  have cx := running_ctx hr cp
  simp only [CommandPoint, hm] at cp
  rw [exec_commandOf] at h
  cases h
  apply coreInv_busy
  · exact ⟨b.params, b.scopeLow, b.readyBound, b.respBound, b.vpBound, b.ocBound⟩
  · rfl
  · apply ctx_running
    · unfold InCommand at cx ⊢
      cases ho : s.op <;> simp only [ho] at cx <;> simp_all [sendCommand]
    · simp [CommandPoint, sendCommand]

theorem decodeRequest_format {r i} (h : decodeRequest r = .ok i) : i.format = .request := by
  have wl : ∀ n bs (j : Instr), j.format = .request → withLength n bs j = .ok i → i.format = .request := by
    intro n bs j hj h; unfold withLength at h; split at h
    · cases h; exact hj
    · cases h
  unfold decodeRequest at h
  repeat' split at h
  all_goals first | exact wl _ _ _ rfl h | (injection h with h; subst h; rfl) | (injection h)

theorem exec_inv {i s t} (hi : CoreInv s) (hb : s.busy = false) (h : exec i s = .next t)
  (hreq : i.format = .request) : CoreInv t := by
  have b := (CoreInv.base hi)
  have wb := wf_bounds b.params
  obtain ⟨h1, h2, h3, h4, h5, h6⟩ := hi.rest hb
  have ret : ∀ d s', Bounds s' → s'.scopeOpen = s.scopeOpen → s'.owned = s.owned → s'.state = s.state → CoreInv (returnOk d s') := by
    intro d s' b' e1 e2 e3; exact returnOk_inv b' (e1 ▸ h4) (e2 ▸ h5) (e3 ▸ h6)
  have fl : ∀ d s', Bounds s' → s'.scopeOpen = s.scopeOpen → s'.owned = s.owned → s'.state = s.state → CoreInv (failOp d s') := by
    intro d s' b' e1 e2 e3; exact failOp_inv b' (e1 ▸ h4) (e2 ▸ h5) (e3 ▸ h6)
  have bb : ∀ s' : State, s'.params = s.params → s'.scopeOpen = s.scopeOpen → s'.csLevel = s.csLevel → s'.readyCnt = s.readyCnt → s'.respCnt = s.respCnt → s'.vpCnt = s.vpCnt → s'.ocCnt = s.ocCnt → Bounds s' := by
    intro s' e1 e2 e3 e4 e5 e6 e7
    exact base_of_eq b e1 (by rw [e2, e3]; exact b.scopeLow) (e4 ▸ b.readyBound) (e5 ▸ b.respBound) (e6 ▸ b.vpBound) (e7 ▸ b.ocBound)
  cases i <;> simp only [exec] at h
  case crc7 => cases h; apply ret <;> first | rfl | (apply bb <;> rfl)
  case encode => 
    unfold execEncode at h; split at h
    · cases h
    · cases h; apply ret <;> first | rfl | (apply bb <;> rfl)
  case decodeCmd => 
    unfold execDecodeCmd at h; split at h
    · cases h
    · cases h; apply ret <;> first | rfl | (apply bb <;> rfl)
  case statusCheckError => 
    unfold execStatusCheckError at h; split at h
    · split at h
      · cases h; apply fl <;> first | rfl | (apply bb <;> rfl)
      · cases h; apply ret <;> first | rfl | (apply bb <;> rfl)
    · cases h
  case statusIsTruncated => 
    unfold execStatusIsTruncated at h; split at h
    · cases h; apply ret <;> first | rfl | (apply bb <;> rfl)
    · cases h
  case checkIfEcho => 
    unfold execCheckIfEcho at h; split at h
    · cases h
    · split at h
      · cases h; apply fl <;> first | rfl | (apply bb <;> rfl)
      · cases h; apply ret <;> first | rfl | (apply bb <;> rfl)
  case capacityFromOcr => 
    unfold execCapacityFromOcr at h; split at h
    · cases h
    · cases h; apply ret <;> first | rfl | (apply bb <;> rfl)
  case waitReady =>
    cases h
    apply coreInv_busy
    · exact ⟨b.params, b.scopeLow, wb.1, b.respBound, b.vpBound, b.ocBound⟩
    · rfl
    · simp [Running, beginWaitReady, startReady, readyAttempt, CommandPoint, h4, h5, h6, wb.1]
  case execCmd =>
    unfold execExecCmd at h; split at h
    · cases h
    · cases h
      apply coreInv_busy
      · exact ⟨b.params, b.scopeLow, wb.1, b.respBound, b.vpBound, b.ocBound⟩
      · rfl
      · simp [Running, beginExecCmd, startReady, readyAttempt, CommandPoint, h4, h5, h6, wb.1]
  case withCsLow =>
    unfold execWithCsLow at h; split at h
    · cases h
    · cases h
      apply coreInv_busy
      · exact ⟨b.params, b.scopeLow, b.readyBound, b.respBound, b.vpBound, b.ocBound⟩
      · rfl
      · simp [Running, ScopePoint, h4, h5, h6]
  case init =>
    cases h
    apply coreInv_busy
    · exact ⟨b.params, by simp, Nat.zero_le _, Nat.zero_le _, Nat.zero_le _, Nat.zero_le _⟩
    · rfl
    · simp [Running, InitPoint, unsetRegs, State.reset]
  all_goals (simp [Instr.format] at hreq)

theorem respond_inv {s t} (hi : CoreInv s) (hb : s.busy = true) (hm : s.micro = .respond) (h : step s = .next t) : CoreInv t := by
  have hr := hi.running hb
  have cp := running_cp hr (by rw [hm]; rfl)
  have cx := running_ctx hr cp
  simp only [CommandPoint, hm] at cp
  rw [step_respond hb hm cp.2] at h
  exact receive_inv (CoreInv.base hi) hb cx h

theorem finish_inv {s t} (hi : CoreInv s) (hb : s.busy = true) (hm : s.micro = .finish) (h : finishInit s = .next t) : CoreInv t := by
  have b := (CoreInv.base hi)
  have hr := hi.running hb
  obtain ⟨c, ho, hr⟩ := init_of_micro hr (by rw [hm]; rfl) (by simp [hm]) (by simp [hm])
  simp only [InitPoint, hm] at hr
  obtain ⟨k, -, h⟩ := readClass_next h
  cases h
  split
  all_goals
    apply coreInv_rest
    · exact ⟨b.params, by simp [readyInit, endOp, logEvent, hr.1], b.readyBound, b.respBound, b.vpBound, b.ocBound⟩
    · rfl
    · simp [AtRest, readyInit, endOp, logEvent, hr.1, Stage.atRest]

end Sys2Proof.Machine
end

