-- ==== Sys2Proof/Laws/PerInstr.lean ====
section
/-! SUPPORT. One lemma per row of the opcode table: its encoding has the row's format, and a frame is six bytes, a response one
or five (30_encoding.md R73, R89). -/

namespace Sys2Proof.Laws.Format

/-- A packet of a format, of a length that format has. -/
def Fits (f : Format) (pk : Packet) : Prop :=
  match f, pk with
  | .request, .request _ => True
  | .commandFrame, .command bytes => bytes.length = 6
  | .response, .response _ bytes => bytes.length = 1 ∨ bytes.length = 5
  | _, _ => False

/-- The encoding of the instruction is of its row's format. -/
def Statement (i : Instr) : Prop := ∀ p : Params, Fits i.format (encode p i)

theorem crc7 (a : List Byte) : Statement (.crc7 a) := fun _ => trivial

theorem encode (a : Index) (b : Word) (c : Nat) : Statement (.encode a b c) := fun _ => trivial

theorem decodeCmd (a : List Byte) : Statement (.decodeCmd a) := fun _ => trivial

theorem statusCheckError (a : List Byte) : Statement (.statusCheckError a) := fun _ => trivial

theorem statusIsTruncated (a : List Byte) : Statement (.statusIsTruncated a) := fun _ => trivial

theorem checkIfEcho (a : List Byte) (b : Byte) : Statement (.checkIfEcho a b) := fun _ => trivial

theorem capacityFromOcr (a : List Byte) : Statement (.capacityFromOcr a) := fun _ => trivial

theorem waitReady : Statement .waitReady := fun _ => trivial

theorem execCmd (a : Index) (b : Word) (c : BitVec 2) : Statement (.execCmd a b c) := fun _ => trivial

theorem withCsLow (a : List BodyOp) : Statement (.withCsLow a) := fun _ => trivial

theorem init (a : Bool) : Statement (.init a) := fun _ => trivial

theorem cmdN (a : Index) (b : Word) : Statement (.cmdN a b) := fun _ => rfl

theorem goIdleState : Statement .goIdleState := fun _ => rfl

theorem sendIfCond (a : BitVec 4) (b : Byte) : Statement (.sendIfCond a b) := fun _ => rfl

theorem crcOnOff : Statement .crcOnOff := fun _ => rfl

theorem appCmd : Statement .appCmd := fun _ => rfl

theorem sdSendOpCond (a : Bool) : Statement (.sdSendOpCond a) := fun _ => rfl

theorem readOcr : Statement .readOcr := fun _ => rfl

theorem respR1 (a : Byte) : Statement (.respR1 a) := fun _ => .inl rfl

theorem respR3 (a : Byte) (b : Word) : Statement (.respR3 a b) := fun _ => .inr rfl

theorem respR7 (a : Byte) (b : Word) : Statement (.respR7 a b) := fun _ => .inr rfl

end Sys2Proof.Laws.Format
end

