-- ==== Sys2Proof/Tests/Slice0.lean ====
section
/-! SUPPORT. Tests: ill-formed terms, words written out bit by bit from 30_encoding.md, one step of each instruction with results
taken from the examples of the rules and from 95_test_vectors.md, and for each statement with hypotheses a state and operands
that meet all of them (`test_meets_…`, one for each of its clauses). The tests are elaborated one after the other: each waits
for the kernel, and a hundred that wait at once would want a hundred threads. -/

set_option Elab.async false

namespace Sys2Proof.Machine

/-! ## Small states -/

/-- The defaults with a number in the place of T_READY_US, which has none. -/
def testParams : Params := { Params.default with tReadyUs := 77 }

/-- Bounds of two, for runs. -/
def smallParams : Params := { testParams with nReady := 2, nResp := 2, nVp := 2, nOc := 2 }

/-- The same under `PerCommand`. -/
def perParams : Params := { smallParams with csScope := .perCommand }

/-- After reset. -/
def testState : State := { State.reset with params := testParams }

/-- After reset, with one request at the port. -/
def offering (r : Request) : State := { testState with host := [.request r] }

/-- A standalone EXEC_CMD of CMD17 with shape `sh`, at a point of its rule. -/
def inCmd (m : Micro) (sh : Shape) : State :=
  { testState with
    busy := true, op := .execCmd, micro := m, cmd := some ⟨17, 0⟩, shape := sh, readyCnt := 1, respCnt := 1
    frame := frameOf 17 0 }

/-- INIT at a point of the EXEC_CMD of command `c`. -/
def inInit (p : Params) (c : InitCmd) (v : Option CardVersion) (m : Micro) : State :=
  { State.reset with
    params := p, busy := true, state := c.stage, op := .init c, micro := m, version := v
    cmd := some ⟨c.index p, c.arg p v⟩, shape := c.shape, csLevel := .low, scopeOpen := true, owned := true
    readyCnt := 1, respCnt := 1, vpCnt := 1, ocCnt := 1
    frame := (frameOf (c.index p) (c.arg p v)) }

/-- Whether an outcome is a next state of which `f` holds. -/
def nextIs (f : State → Bool) : Out → Bool
  | .next t => f t
  | _ => false

/-- The result an outcome has put on the response port. -/
def resultOf : Out → Option Response
  | .next t => t.rsp.getLast?
  | _ => none

/-- The call an outcome has issued. -/
def callOf : Out → Option Call
  | .next t => pendingCall t
  | _ => none

/-! ## Ill-formed terms are refused -/

theorem test_wf_decodeCmd : (Instr.decodeCmd [0x48, 0, 0, 1, 0xAA]).wf testParams = false := by decide +kernel
theorem test_wf_statusCheckError : (Instr.statusCheckError []).wf testParams = false := by decide +kernel
theorem test_wf_statusIsTruncated : (Instr.statusIsTruncated [1, 2]).wf testParams = false := by decide +kernel
theorem test_wf_checkIfEcho : (Instr.checkIfEcho [0, 0, 1] 0xAA).wf testParams = false := by decide +kernel
theorem test_wf_capacityFromOcr : (Instr.capacityFromOcr [0, 0, 0, 0, 0]).wf testParams = false := by decide +kernel
theorem test_wf_execCmd : (Instr.execCmd 17 0 3).wf testParams = false := by decide +kernel
theorem test_wf_withCsLow : (Instr.withCsLow [.waitReady, .execCmd 17 0 3]).wf testParams = false := by decide +kernel
theorem test_wf_cmdN : (Instr.cmdN 0 0).wf testParams = false := by decide +kernel
theorem test_wf_cmdN_ifCond : (Instr.cmdN 8 0x1AA).wf testParams = false := by decide +kernel
theorem test_wf_respR1 : (Instr.respR1 0xFF).wf testParams = false := by decide +kernel
theorem test_wf_respR3 : (Instr.respR3 0x04 0).wf testParams = false := by decide +kernel
theorem test_wf_respR7 : (Instr.respR7 0x08 0).wf testParams = false := by decide +kernel

/-! ## Words written out bit by bit (30_encoding.md) -/

/-- R73, R74, R75 with R80's index 0: prefix 01, index 000000, checksum 1001010, stop 1. -/
theorem test_decode_goIdle : decode testParams (.command
    [0b01000000#8, 0b00000000#8, 0b00000000#8, 0b00000000#8, 0b00000000#8, 0b10010101#8]) = .ok .goIdleState := by decide +kernel

/-- R81: voltage code 0001 in bits 11 to 8, pattern 10101010 in bits 7 to 0. -/
theorem test_decode_sendIfCond : decode testParams (.command
    [0b01001000#8, 0b00000000#8, 0b00000000#8, 0b00000001#8, 0b10101010#8, 0b10000111#8])
      = .ok (.sendIfCond 0b0001#4 0b10101010#8) := by decide +kernel

/-- R82: bit 30 of the argument. -/
theorem test_decode_sdSendOpCond : decode testParams (.command
    [0b01101001#8, 0b01000000#8, 0b00000000#8, 0b00000000#8, 0b00000000#8, 0b01110111#8])
      = .ok (.sdSendOpCond true) := by decide +kernel

theorem test_decode_crcOnOff : decode testParams (.command
    [0b01111011#8, 0b00000000#8, 0b00000000#8, 0b00000000#8, 0b00000001#8, 0b10000011#8]) = .ok .crcOnOff := by decide +kernel
theorem test_decode_appCmd : decode testParams (.command
    [0b01110111#8, 0b00000000#8, 0b00000000#8, 0b00000000#8, 0b00000000#8, 0b01100101#8]) = .ok .appCmd := by decide +kernel
theorem test_decode_readOcr : decode testParams (.command
    [0b01111010#8, 0b00000000#8, 0b00000000#8, 0b00000000#8, 0b00000000#8, 0b11111101#8]) = .ok .readOcr := by decide +kernel

/-- R73 with the greatest index and argument: the frame 41_frame_codec.md R110 gives. -/
theorem test_decode_cmdN : decode testParams (.command
    [0b01111111#8, 0b11111111#8, 0b11111111#8, 0b11111111#8, 0b11111111#8, 0b00011001#8])
      = .ok (.cmdN 63 0xFFFFFFFF) := by decide +kernel

/-- R84: each of the three checks. -/
theorem test_decode_badPrefix : decode testParams (.command [0xC0, 0, 0, 0, 0, 0x95]) = .error .badPrefix := by decide +kernel
theorem test_decode_badStop : decode testParams (.command [0x40, 0, 0, 0, 0, 0x94]) = .error .badStop := by decide +kernel
theorem test_decode_badCrc : decode testParams (.command [0x40, 0, 0, 0, 0, 0x97]) = .error .badCrc := by decide +kernel

/-- R77: idle bit set, every other bit clear. -/
theorem test_decode_respR1 : decode testParams (.response .r1 [0b00000001#8]) = .ok (.respR1 0b00000001#8) := by decide +kernel

/-- R79: the capacity-status bit is bit 6 of the first extra byte. -/
theorem test_decode_respR3 : decode testParams (.response .r3
    [0b00000000#8, 0b01000000#8, 0b00000000#8, 0b00000000#8, 0b00000000#8])
      = .ok (.respR3 0 0b01000000000000000000000000000000#32) := by decide +kernel

/-- R78: the voltage code is the low nibble of extra byte 2, the pattern extra byte 3. -/
theorem test_decode_respR7 : decode testParams (.response .r7
    [0b00000001#8, 0b00000000#8, 0b00000000#8, 0b00000001#8, 0b10101010#8])
      = .ok (.respR7 1 0b00000000000000000000000110101010#32) := by decide +kernel

/-- R85: 0xFF is no status. -/
theorem test_decode_sentinel : decode testParams (.response .r1 [0xFF]) = .error .sentinel := by decide +kernel

/-- R70: the codes of the eleven requests, in the order of its table. -/
theorem test_decode_requests :
    decodeRequest { Request.ofOp 0b0001#4 with bytes := [7] } = .ok (.crc7 [7])
      ∧ decodeRequest { Request.ofOp 0b0010#4 with index := 5, arg := 6, len := 7 } = .ok (.encode 5 6 7)
      ∧ decodeRequest { Request.ofOp 0b0011#4 with bytes := [1, 2, 3, 4, 5, 6] } = .ok (.decodeCmd [1, 2, 3, 4, 5, 6])
      ∧ decodeRequest { Request.ofOp 0b0100#4 with bytes := [9] } = .ok (.statusCheckError [9])
      ∧ decodeRequest { Request.ofOp 0b0101#4 with bytes := [9] } = .ok (.statusIsTruncated [9])
      ∧ decodeRequest { Request.ofOp 0b0110#4 with bytes := [1, 2, 3, 4], pattern := 5 } = .ok (.checkIfEcho [1, 2, 3, 4] 5)
      ∧ decodeRequest { Request.ofOp 0b0111#4 with bytes := [1, 2, 3, 4] } = .ok (.capacityFromOcr [1, 2, 3, 4])
      ∧ decodeRequest (Request.ofOp 0b1000#4) = .ok .waitReady
      ∧ decodeRequest { Request.ofOp 0b1001#4 with index := 58, arg := 3, shape := 0b01#2 } = .ok (.execCmd 58 3 1)
      ∧ decodeRequest { Request.ofOp 0b1010#4 with body := [(Request.ofOp 0b1000#4).toSubRequest] }
          = .ok (.withCsLow [.waitReady])
      ∧ decodeRequest { Request.ofOp 0b1011#4 with speedup := true } = .ok (.init true) := by decide +kernel

/-- R72: a wrong length, and a body that holds INIT. -/
theorem test_decode_refused :
    decodeRequest { Request.ofOp 0x3 with bytes := [1, 2, 3, 4, 5] } = .error .wrongLength
      ∧ decodeRequest { Request.ofOp 0xA with body := [(Request.ofOp 0xB).toSubRequest] } = .error .badBody
      ∧ decodeRequest (Request.ofOp 0xC) = .error .reservedOp
      ∧ decodeRequest { Request.ofOp 0x9 with shape := 3 } = .error .reservedShape := by decide +kernel

/-! ## The words of the opcode table -/

theorem test_tableWord_requests : decodeTableWord 8 0x1 = some (.crc7 []) ∧ decodeTableWord 8 0xB = some (.init false)
    ∧ decodeTableWord 8 0xA = some (.withCsLow []) := by decide +kernel
theorem test_tableWord_frame : decodeTableWord 48 0x480000_01AA87 = some (.sendIfCond 1 0xAA) := by decide +kernel
/-- The checksum bits left zero are filled in; wrong ones are refused. -/
theorem test_tableWord_crc : decodeTableWord 48 0x7A0000000001 = some .readOcr
    ∧ decodeTableWord 48 0x7A00000000FF = none := by decide +kernel
theorem test_tableWord_response : decodeTableWord 40 0x00C0FF8000 = some (.respR3 0 0xC0FF8000) := by decide +kernel

/-- The next step runs the row: a request, a frame, a response. -/
theorem test_fetchWord :
    callOf (step (State.reset.withFetchWord 8 0xA)) = some (.setCs .low)
      ∧ callOf (step (State.reset.withFetchWord 48 0x400000000095)) = some (.write [0x40, 0, 0, 0, 0, 0x95])
      ∧ resultOf (step (State.reset.withFetchWord 8 0x60)) =
          some ⟨false, .none, some (.commandRejected .addressError), false⟩ := by decide +kernel

/-! ## One step of each instruction -/

/-- 95_test_vectors.md V1. -/
theorem test_crc7 : resultOf (exec (.crc7 [0x40, 0, 0, 0, 0]) testState) = some ⟨true, .crc 0x4A, none, false⟩ := by decide +kernel
/-- The catalogue check value (R100). -/
theorem test_crc7_check : crc7 [0x31, 0x32, 0x33, 0x34, 0x35, 0x36, 0x37, 0x38, 0x39] = 0x75 := by decide +kernel
/-- The source's own vector (R110). -/
theorem test_encode : resultOf (exec (.encode 0 0 6) testState)
    = some ⟨true, .frame ⟨0x40, 0, 0, 0, 0, 0x95⟩, none, false⟩ := by decide +kernel
theorem test_encode_short : exec (.encode 0 0 5) testState = .fault .bufferTooShort := rfl
/-- R112's example and corner case. -/
theorem test_decodeCmd : resultOf (exec (.decodeCmd [0x48, 0, 0, 1, 0xAA, 0x87]) testState)
    = some ⟨true, .decoded 8 0x1AA true true true, none, false⟩ := by decide +kernel
theorem test_decodeCmd_ones : resultOf (exec (.decodeCmd [0xFF, 0xFF, 0xFF, 0xFF, 0xFF, 0xFF]) testState)
    = some ⟨true, .decoded 63 0xFFFFFFFF false true false, none, false⟩ := by decide +kernel
/-- R120's example and corner case. -/
theorem test_statusCheckError : resultOf (exec (.statusCheckError [0x60]) testState)
    = some ⟨false, .none, some (.commandRejected .addressError), false⟩ := by decide +kernel
theorem test_statusCheckError_all : resultOf (exec (.statusCheckError [0x7C]) testState)
    = some ⟨false, .none, some (.commandRejected .illegalCommand), false⟩ := by decide +kernel
/-- R122's examples. -/
theorem test_statusIsTruncated : resultOf (exec (.statusIsTruncated [0x05]) testState)
    = some ⟨true, .bit true, none, false⟩ := by decide +kernel
theorem test_statusIsTruncated_not : resultOf (exec (.statusIsTruncated [0x10]) testState)
    = some ⟨true, .bit false, none, false⟩ := by decide +kernel
/-- R124's examples. -/
theorem test_checkIfEcho : resultOf (exec (.checkIfEcho [0xFF, 0xFF, 0xF1, 0xAA] 0xAA) testState)
    = some ⟨true, .none, none, false⟩ := by decide +kernel
theorem test_checkIfEcho_both : resultOf (exec (.checkIfEcho [0, 0, 2, 0x55] 0xAA) testState)
    = some ⟨false, .none, some .unexpectedVoltage, false⟩ := by decide +kernel
/-- R126's corner cases. -/
theorem test_capacityFromOcr : resultOf (exec (.capacityFromOcr [0x40, 0, 0, 0]) testState)
    = some ⟨true, .capacity .highOrExtended, none, false⟩ := by decide +kernel
theorem test_capacityFromOcr_not : resultOf (exec (.capacityFromOcr [0xBF, 0xFF, 0xFF, 0xFF]) testState)
    = some ⟨true, .capacity .standard, none, false⟩ := by decide +kernel
/-- R140: the first exchange, and the timeout on exchange N_READY. -/
theorem test_waitReady : callOf (exec .waitReady testState) = some (.xfer 0xFF) := by decide +kernel
theorem test_waitReady_timeout : resultOf (readyByte 0x00 { testState with op := .waitReady, readyCnt := 32 })
    = some ⟨false, .none, some .readyTimeout, false⟩ := by decide +kernel
/-- R142: the ready-wait comes first; R143: the poll ends after N_RESP sentinels. -/
theorem test_execCmd : nextIs (fun t => t.shape == .r7 && t.readyCnt == 1 && pendingCall t == some (.xfer 0xFF))
    (exec (.execCmd 8 0x1AA 2) testState) = true := by decide +kernel
theorem test_execCmd_timeout : resultOf (step { inCmd .pollXfer .r1 with respCnt := 8, answers := [.byteOf 0xFF] })
    = some ⟨false, .none, some .responseTimeout, false⟩ := by decide +kernel
/-- R149: the assertion comes first; an empty body is `CS(L) CS(H)`. -/
theorem test_withCsLow : callOf (exec (.withCsLow [.waitReady]) testState) = some (.setCs .low) := by decide +kernel
theorem test_withCsLow_empty : nextIs (fun t => t.csLevel == .low && t.scopeOpen && pendingCall t == some (.setCs .high))
    (step { testState with busy := true, op := .withCsLow [] [], micro := .csLow, answers := [.done] }) = true := by decide +kernel
/-- R162: the first call of INIT is `D(1000)`; R36: `owned` is 1 and `speedup_req` from the request. -/
theorem test_init : callOf (exec (.init true) testState) = some (.delay 1000) := by decide +kernel
theorem test_init_entry : nextIs (fun t => t.state == .powerUp && t.owned && t.speedupReq && t.busy)
    (exec (.init true) testState) = true := by decide +kernel
/-- The frames of R80's last column. -/
theorem test_cmdN : callOf (exec (.cmdN 63 0xFFFFFFFF) testState) = some (.write [0x7F, 0xFF, 0xFF, 0xFF, 0xFF, 0x19]) := by
  decide +kernel
theorem test_goIdleState : callOf (exec .goIdleState testState) = some (.write [0x40, 0, 0, 0, 0, 0x95]) := by decide +kernel
theorem test_sendIfCond : callOf (exec (.sendIfCond 1 0xAA) testState) = some (.write [0x48, 0, 0, 1, 0xAA, 0x87]) := by
  decide +kernel
theorem test_crcOnOff : callOf (exec .crcOnOff testState) = some (.write [0x7B, 0, 0, 0, 1, 0x83]) := by decide +kernel
theorem test_appCmd : callOf (exec .appCmd testState) = some (.write [0x77, 0, 0, 0, 0, 0x65]) := by decide +kernel
theorem test_sdSendOpCond : callOf (exec (.sdSendOpCond true) testState) = some (.write [0x69, 0x40, 0, 0, 0, 0x77]) := by
  decide +kernel
theorem test_sdSendOpCond_v1 : callOf (exec (.sdSendOpCond false) testState) = some (.write [0x69, 0, 0, 0, 0, 0xE5]) := by
  decide +kernel
/-- R80: the arguments of APP_CMD and READ_OCR are parameters. -/
theorem test_commandArguments :
    let p : Params := { testParams with appCmdArg := 0x01020304, readOcrArg := 0x05060708 }
    nextIs (fun t => t.frame.arg == 0x01020304 && t.frame.index == 55) (exec .appCmd { testState with params := p })
      && nextIs (fun t => t.frame.arg == 0x05060708 && t.frame.index == 58) (exec .readOcr { testState with params := p })
      && decode p (.command (frameOf 55 0x01020304).toList) == .ok .appCmd = true := by decide +kernel
theorem test_readOcr : callOf (exec .readOcr testState) = some (.write [0x7A, 0, 0, 0, 0, 0xFD]) := by decide +kernel
/-- R145: an address error is reported after the extra bytes, which stay (R144). -/
theorem test_respR1 : resultOf (exec (.respR1 0x05) (inCmd .respond .r1))
    = some ⟨false, .none, some (.commandRejected .illegalCommand), false⟩ := by decide +kernel
theorem test_respR3 : resultOf (exec (.respR3 0x00 0xC0FF8000) (inCmd .respond .r3))
    = some ⟨true, .cmd ⟨0, some ⟨0xC0, 0xFF, 0x80, 0x00⟩⟩, none, false⟩ := by decide +kernel
theorem test_respR7 : nextIs (fun t => t.extra == ⟨0, 0, 1, 0xAA⟩ && t.status == 0x20
    && t.errCode == some (.commandRejected .addressError)) (exec (.respR7 0x20 0x000001AA) (inCmd .respond .r7)) = true := by
  decide +kernel

/-! ## States that meet the hypotheses of the statements -/

/-- A state inside a command of INIT has the invariant. -/
theorem coreInv_inInit {s : State} {c : InitCmd} (b : Bounds s) (hb : s.busy = true) (ho : s.op = .init c)
    (hr : s.owned = true ∧ s.errCode = none ∧ s.scopeOpen = true
      ∧ s.cmd = some ⟨c.index s.params, c.arg s.params s.version⟩ ∧ s.state = c.stage ∧ c.versionOk s.version
      ∧ s.shape = c.shape) (hc : CommandPoint s) : CoreInv s :=
  coreInv_busy b hb (ctx_running (by simp only [InCommand, ho]; exact hr) hc)

/-- A state inside a standalone command has it. -/
theorem coreInv_inCmd {s : State} (b : Bounds s) (hb : s.busy = true) (ho : s.op = .execCmd)
    (hr : s.cmd.isSome = true ∧ s.scopeOpen = false ∧ s.owned = false ∧ s.state.atRest = true) (hc : CommandPoint s) :
    CoreInv s :=
  coreInv_busy b hb (ctx_running (by simp only [InCommand, ho]; exact hr) hc)

/-- Bounds of a concrete state, as one closed question. -/
theorem bounds_of {s : State} (h : (s.params.wf && (!s.scopeOpen || s.csLevel == .low) && decide (s.readyCnt ≤ s.params.nReady)
    && decide (s.respCnt ≤ s.params.nResp) && decide (s.vpCnt ≤ s.params.nVp) && decide (s.ocCnt ≤ s.params.nOc)) = true) :
    Bounds s := by
  simp only [Bool.and_eq_true, decide_eq_true_eq, Bool.or_eq_true, Bool.not_eq_true', beq_iff_eq] at h
  obtain ⟨⟨⟨⟨⟨h1, h2⟩, h3⟩, h4⟩, h5⟩, h6⟩ := h
  exact ⟨h1, fun ho => h2.resolve_left (by simp [ho]), h3, h4, h5, h6⟩

/-- The response of command `c` of INIT, with status `st` and extra bytes `q`, about to be validated. -/
def responded (p : Params) (c : InitCmd) (v : Option CardVersion) (st : Byte) (q : Quad) : State :=
  { inInit p c v .respond with status := st, extra := q, answers := List.replicate 4 Answer.done }

theorem responded_inv {p : Params} {c : InitCmd} {v : Option CardVersion} {st : Byte} {q : Quad} (hp : p.wf = true)
    (hv : c.versionOk v) (hst : st ≠ 0xFF) : CoreInv (responded p c v st q) := by
  have w := wf_bounds hp
  refine coreInv_inInit ⟨hp, fun _ => rfl, w.1, w.2.1, w.2.2.1, w.2.2.2⟩ rfl rfl ⟨rfl, rfl, rfl, rfl, rfl, hv, rfl⟩ ?_
  exact ⟨rfl, hst⟩

/-- The answers to a card that is ready at once and stays silent for one poll. -/
def cmdAnswers (st : Byte) (q : List Byte) : List Answer :=
  [.byteOf 0, .done, .byteOf 0xFF, .done, .byteOf 0xFF, .byteOf st] ++ q.map Answer.byteOf

theorem test_meets_DecodeOfEncode :
    Params.default.indicesDistinct = true ∧ (Instr.respR3 0x00 0xC0FF8000).wf Params.default = true
      ∧ (Instr.withCsLow [.execCmd 63 0xFFFFFFFF 2]).wf Params.default = true
      ∧ (Instr.cmdN 17 0).wf Params.default = true := by decide +kernel

theorem test_meets_FramesDecodeUnlessMalformed :
    decode Params.default (.command [0x51, 0, 0, 0, 0, 0x55]) = .ok (.cmdN 17 0) := by decide +kernel

/-- A status that is not the sentinel, in each of the two ways a response can be short, and whole. -/
theorem test_meets_ResponsesDecodeByLength :
    ((0x04 : Byte) ≠ 0xFF ∧ (0x04 : Byte).getLsbD 2 = true) ∧ ((0x08 : Byte) ≠ 0xFF ∧ (0x08 : Byte).getLsbD 3 = true)
      ∧ ((0xF3 : Byte) ≠ 0xFF ∧ (0xF3 : Byte).getLsbD 2 = false ∧ (0xF3 : Byte).getLsbD 3 = false) := by decide +kernel

/-- Codes 0x0, 0xC and 0xF, and EXEC_CMD with shape 3. -/
theorem test_meets_ReservedCodesAreRefused :
    (step (offering (Request.ofOp 0x0)) = .fault .illegalRequest)
      ∧ (step (offering (Request.ofOp 0xC)) = .fault .illegalRequest)
      ∧ (step (offering (Request.ofOp 0xF)) = .fault .illegalRequest)
      ∧ (step (offering { Request.ofOp 0x9 with shape := 3 }) = .fault .illegalRequest) := ⟨rfl, rfl, rfl, rfl⟩

/-- One state for each of the four fetch points. -/
theorem test_meets_StepRunsTheDecodedInstruction :
    (decode testParams (.request (Request.ofOp 0x8)) = .ok .waitReady ∧ (offering (Request.ofOp 0x8)).busy = false)
      ∧ ((inCmd .sendFrame .r1).micro = .sendFrame ∧ (inCmd .sendFrame .r1).cmd = some ⟨17, 0⟩
        ∧ decode testParams (.command (frameOf 17 0).toList) = .ok (.cmdN 17 0))
      ∧ (readsExtra .r7 0x04 = false ∧ decode testParams (.response .r7 [0x04]) = .ok (.respR1 0x04))
      ∧ (readsExtra .r7 0x01 = true
        ∧ decode testParams (.response .r7 (0x01 :: Quad.toList ⟨0, 0, 1, 0xAA⟩)) = .ok (.respR7 0x01 0x1AA)) := by
  decide +kernel

theorem test_meets_Crc7AlgebraicLaws :
    [(0x40 : Byte), 0x01].length = [(0x00 : Byte), 0xFF].length ∧ crc7 (List.zipWith (· ^^^ ·) [0x40, 0x01] [0x00, 0xFF]) = crc7 [0x40, 0x01] ^^^ crc7 [0x00, 0xFF] := by decide +kernel

/-- The two sides of the length bound, and the frame of one encoding. -/
theorem test_meets_EncodedFramesCarryTheirChecksum :
    (5 < 6 ∧ 6 ≤ 6) ∧ nextIs (fun t => t.frame == ⟨0x40, 0, 0, 0, 0, 0x95⟩) (exec (.encode 0 0 6) testState) = true := by
  decide +kernel

/-- A status byte for each clause. -/
theorem test_meets_StatusCheckErrorResult :
    (0x83 : Byte).extractLsb' 2 5 = 0 ∧ (0x7C : Byte).getLsbD 2 = true
      ∧ ((0x78 : Byte).extractLsb' 2 1 = 0 ∧ (0x78 : Byte).getLsbD 3 = true)
      ∧ ((0x70 : Byte).extractLsb' 2 2 = 0 ∧ (0x70 : Byte).getLsbD 4 = true)
      ∧ ((0x60 : Byte).extractLsb' 2 3 = 0 ∧ (0x60 : Byte).getLsbD 5 = true)
      ∧ ((0x40 : Byte).extractLsb' 2 4 = 0 ∧ (0x40 : Byte).getLsbD 6 = true) := by decide +kernel

/-- An echo for each clause. -/
theorem test_meets_CheckIfEchoResult :
    ((0xF1 : Byte).extractLsb' 0 4 = testState.params.vhsCode ∧ (0xAA : Byte) = 0xAA)
      ∧ (0x02 : Byte).extractLsb' 0 4 ≠ testState.params.vhsCode
      ∧ ((0x01 : Byte).extractLsb' 0 4 = testState.params.vhsCode ∧ (0x55 : Byte) ≠ 0xAA) := by decide +kernel

theorem test_meets_CapacityFromOcrResult : (0x40 : Byte).getLsbD 6 = true ∧ (0xBF : Byte).getLsbD 6 = false := by
  decide +kernel

/-- Success and fault after one miss, and the timeout at the bound of two. -/
theorem test_meets_WaitReadyLaw :
    let s (a : Answer) : State :=
      { testState with params := smallParams, answers := missAnswers [(0x00, .done)] ++ a :: [.done] }
    (∀ m ∈ [((0x00 : Byte), Answer.done)], m.1 ≠ 0xFF) ∧ 1 < (s .done).params.nReady
      ∧ nextIs (fun u => nextIs (fun t => t.rsp == [⟨true, .none, none, false⟩]) (runs 3 u))
          (exec .waitReady (s (.byteOf 0xFF))) = true
      ∧ nextIs (fun u => nextIs (fun t => t.rsp == [⟨false, .none, some .readyTimeout, false⟩]) (runs 3 u))
          (exec .waitReady (s (.byteOf 0x7F))) = true
      ∧ nextIs (fun u => nextIs (fun t => t.rsp == [⟨false, .none, some .busTransferFault, false⟩]) (runs 3 u))
          (exec .waitReady (s ⟨true, 0⟩)) = true := by decide +kernel

/-- A response with an echo and one whose status reports an error, after one miss and one silent poll. -/
theorem test_meets_ExecCmdCollectsTheResponse :
    let s (st : Byte) : State := { testState with
      params := smallParams
      answers := commandAnswers [(0x00, .done)] .done 1 st (echoOf .r7 st ⟨0, 0, 1, 0xAA⟩) ++ [.done] }
    (∀ m ∈ [((0x00 : Byte), Answer.done)], m.1 ≠ 0xFF) ∧ 1 < smallParams.nReady ∧ Answer.done.fault = false
      ∧ 1 < smallParams.nResp
      ∧ nextIs (fun u => nextIs (fun t => t.rsp == [⟨true, .cmd ⟨0x01, some ⟨0, 0, 1, 0xAA⟩⟩, none, false⟩])
          (runs 12 u)) (exec (.execCmd 8 0x1AA 2) (s 0x01)) = true
      ∧ nextIs (fun u => nextIs (fun t => t.rsp == [⟨false, .none, some (.commandRejected .illegalCommand), false⟩])
          (runs 8 u)) (exec (.execCmd 8 0x1AA 2) (s 0x05)) = true := by decide +kernel

/-- Each of the six clauses: its answers run to its error in its number of steps. -/
theorem test_meets_ExecCmdStopsAtTheFirstFailure :
    let misses : List (Byte × Answer) := [(0x00, .done)]
    let s (l : List Answer) : State :=
      { testState with params := smallParams, answers := missAnswers misses ++ l ++ [.done] }
    let ends (n : Nat) (l : List Answer) (e : Err) : Bool :=
      nextIs (fun u => nextIs (fun t => t.rsp == [⟨false, .none, some e, false⟩]) (runs n u)) (exec (.execCmd 58 0 1) (s l))
    ends 3 [.byteOf 0x00] .readyTimeout
      ∧ ends 3 [⟨true, 0⟩] .busTransferFault
      ∧ ends 5 [.byteOf 0xFF, ⟨true, 0⟩] .busWriteFault
      ∧ ends 7 [.byteOf 0xFF, .done, .byteOf 0xFF, .byteOf 0xFF] .responseTimeout
      ∧ ends 7 [.byteOf 0xFF, .done, .byteOf 0xFF, ⟨true, 0⟩] .busTransferFault
      ∧ ends 11 [.byteOf 0xFF, .done, .byteOf 0xFF, .byteOf 0x01, .byteOf 1, .byteOf 2, .byteOf 3, ⟨true, 0⟩]
          .busTransferFault := by decide +kernel

/-- A card that is not ready once and silent for one poll: both at the bounds of two. -/
def lateReply (st : Byte) : Reply := ⟨[(0x00, .done)], .done, 1, st⟩

theorem lateReply_arrives {p : Params} {st : Byte} (hp : p = smallParams ∨ p = perParams) (h : st ≠ 0xFF) :
    (lateReply st).arrives p := by
  refine ⟨by simp [lateReply], ?_, rfl, ?_, h⟩
  · show 1 < p.nReady
    rcases hp with rfl | rfl <;> decide +kernel
  · show 1 < p.nResp
    rcases hp with rfl | rfl <;> decide +kernel

theorem lateReply_ok {p : Params} {st : Byte} (hp : p = smallParams ∨ p = perParams) (h : st ≠ 0xFF)
    (he : errorBits st = 0) : (lateReply st).ok p := ⟨lateReply_arrives hp h, he⟩

/-- A body of both kinds of element, each at the bounds; either answer of the restore will do. -/
theorem test_meets_WithCsLowRunsItsBody :
    ∀ b ∈ [BodyStep.ready [(0x00, .done)], .cmd 58 0 .r3 (lateReply 0x00) ⟨0x40, 0, 0, 0⟩], b.good smallParams := by
  intro b hb
  simp only [List.mem_cons, List.not_mem_nil, or_false] at hb
  rcases hb with rfl | rfl
  · exact ⟨by simp, by decide +kernel⟩
  · exact lateReply_ok (.inl rfl) (by decide) (by decide)

theorem test_meets_WithCsLowAssertionFault :
    [BodyOp.waitReady, .execCmd 0 0 2].all BodyOp.wf = true ∧ (⟨true, 0⟩ : Answer).fault = true := by decide +kernel

/-- A point of a WITH_CS_LOW with one element still to run. -/
def inScope (p : Params) (m : Micro) (l : List Answer) : State :=
  { inCmd m .r1 with params := p, op := .withCsLow [.waitReady] [], scopeOpen := true, csLevel := .low, answers := l }

/-- A rejected status; an answer for each of the four errors; a restore with an error in flight. -/
theorem test_meets_WithCsLowBodyErrorWins :
    ((lateReply 0x40).arrives smallParams ∧ statusError (lateReply 0x40).status = some .parameterError
        ∧ [BodyOp.waitReady].all BodyOp.wf = true)
      ∧ ((inScope { testParams with nReady := 1 } .readyXfer []).raisedBy (.byteOf 0x7F) .readyTimeout
        ∧ (inScope { testParams with nResp := 1 } .pollXfer []).raisedBy (.byteOf 0xFF) .responseTimeout
        ∧ (inScope testParams (.extraXfer 3) []).raisedBy ⟨true, 0⟩ .busTransferFault
        ∧ (inScope testParams .frameWrite []).raisedBy ⟨true, 0⟩ .busWriteFault
        ∧ pendingCall (inScope testParams .frameWrite []) = some (.write (frameOf 17 0).toList))
      ∧ ((inScope testParams (.csHigh (some .readyTimeout)) [⟨true, 0⟩]).busy = true
        ∧ nextIs (fun t => t.rsp == [⟨false, .none, some .readyTimeout, false⟩] && t.csLevel == .unknown)
          (step (inScope testParams (.csHigh (some .readyTimeout)) [⟨true, 0⟩])) = true) :=
  ⟨⟨lateReply_arrives (.inl rfl) (by decide), rfl, rfl⟩,
    ⟨⟨rfl, rfl, by decide, rfl⟩, ⟨rfl, rfl, rfl, rfl⟩, ⟨.inr (.inr ⟨3, rfl⟩), rfl⟩, ⟨rfl, rfl⟩, rfl⟩,
    ⟨rfl, by decide +kernel⟩⟩

/-- A WITH_CS_LOW with an empty body, run to its end. -/
theorem test_meets_ScopeLaw :
    let s : State := { testState with answers := [.done, .done] }
    s.host = [] ∧ Answer.done.fault = false
      ∧ nextIs (fun u => nextIs (fun t => !t.busy) (runs 2 u)) (exec (.withCsLow []) s) = true := by decide +kernel

/-- A standalone EXEC_CMD in its poll. -/
def polling : State := { inCmd .pollXfer .r1 with answers := [.byteOf 0x01] }

theorem polling_inv : CoreInv polling :=
  coreInv_inCmd (bounds_of (by decide +kernel)) rfl rfl (by decide +kernel)
    ⟨by decide +kernel, by decide +kernel, by decide +kernel⟩

theorem test_meets_StandaloneCommandsLeaveChipSelect :
    ∃ s t : State, CoreInv s ∧ s.busy = true ∧ (s.op = .waitReady ∨ s.op = .execCmd) ∧ step s = .next t :=
  ⟨polling, _, polling_inv, rfl, .inr rfl, rfl⟩

theorem test_meets_FrameWriteIsAnswered :
    let s (f : Bool) : State := { inCmd .frameWrite .r1 with answers := [⟨f, 0⟩] }
    let u : State := { s true with op := .withCsLow [] [] }
    (∀ f, (s f).busy = true ∧ (s f).micro = .frameWrite ∧ (s f).frame = frameOf 17 0 ∧ (s f).op = .execCmd
        ∧ 1 ≤ (s f).params.nResp)
      ∧ u.busy = true ∧ u.micro = .frameWrite ∧ u.frame = (frameOf 17 0) := by decide +kernel

/-- A status for each clause; the last is the byte that is no response. -/
theorem test_meets_ResponseRowsAreReceived :
    ((inCmd .respond .r1).op = .execCmd ∧ (0x01 : Byte) ≠ 0xFF ∧ errorBits 0x01 = 0)
      ∧ (statusError 0x20 = some .addressError ∧ isTruncated 0x20 = false)
      ∧ (statusError 0x05 = some .illegalCommand ∧ isTruncated 0x05 = true)
      ∧ { inCmd .respond .r1 with op := .withCsLow [] [.ready] }.op = .withCsLow [] [.ready]
      ∧ (inCmd .respond .r1).respCnt ≠ (inCmd .respond .r1).params.nResp := by decide +kernel

theorem test_meets_ResetInput :
    let s : State := { testState with host := [.reset] }
    s.busy = false ∧ s.host = .reset :: [] := by decide +kernel

/-- Both scopes, with the faults of the three calls and without. -/
theorem test_meets_PowerUpSequence :
    let run (p : Params) (n : Nat) (l : List Answer) (f : State → Bool) : Bool :=
      nextIs (fun u => nextIs f (runs n u)) (exec (.init false) { testState with params := p, answers := l })
    run smallParams 2 [.done, ⟨true, 0⟩, .done, .done] (fun t => t.errCode == some .chipSelectFault)
      ∧ run smallParams 3 [.done, .done, ⟨true, 0⟩, .done] (fun t => t.errCode == some .busWriteFault)
      ∧ run perParams 3 [.done, .done, .done, .done] (fun t => t.state == .idle)
      ∧ run smallParams 4 [.done, .done, .done, .done] (fun t => t.state == .idle && t.scopeOpen)
      ∧ run smallParams 4 [.done, .done, .done, ⟨true, 0⟩]
          (fun t => t.errCode == some .chipSelectFault && t.failState == .powerUp && t.csLevel == .unknown) := by
  decide +kernel

/-- SD_SEND_OP_COND for a V2 card, its frame about to be sent. -/
def sendingOpCond : State :=
  { inInit testParams .sdSendOpCond (some .v2) .sendFrame with trace := [.xfer 0xFF (some 0xFF)] }

theorem sendingOpCond_inv : CoreInv sendingOpCond :=
  coreInv_inInit (c := .sdSendOpCond) (bounds_of (by decide +kernel)) rfl rfl ⟨rfl, rfl, rfl, rfl, rfl, rfl, rfl⟩ rfl

theorem test_meets_InitSendsTheCommandTable :
    ∃ (s : State) (c : InitCmd), CoreInv s ∧ s.busy = true ∧ s.op = .init c ∧ s.micro = .sendFrame :=
  ⟨sendingOpCond, .sdSendOpCond, sendingOpCond_inv, rfl, rfl, rfl⟩

/-- Every error flag set, under each scope, with a restore that succeeds and one that faults. -/
theorem test_meets_IllegalCommandMeansVersionOne :
    ∀ p ∈ [smallParams, perParams], ∀ a ∈ [Answer.done, ⟨true, 0⟩], ∃ (s : State) (st : Byte) (rest : List Answer),
      s.params = p ∧ CoreInv s ∧ s.busy = true ∧ s.op = .init .sendIfCond ∧ s.micro = .respond ∧ s.status = st
      ∧ st.getLsbD 2 = true ∧ s.answers = a :: rest := by
  intro p hp a _
  have hw : p.wf = true := by
    simp only [List.mem_cons, List.not_mem_nil, or_false] at hp
    rcases hp with rfl | rfl <;> decide +kernel
  exact ⟨{ responded p .sendIfCond none 0x7C ⟨0, 0, 0, 0⟩ with answers := [a] }, 0x7C, [], rfl,
    (responded_inv (c := .sendIfCond) (v := none) (st := 0x7C) (q := ⟨0, 0, 0, 0⟩) hw rfl (by decide)).with_answers _, rfl, rfl, rfl, rfl, rfl, rfl⟩

/-- A matching echo; a mismatch with an attempt left; a mismatch on the last attempt, the pattern alone wrong. -/
theorem test_meets_EchoDecidesTheVersion :
    (∃ s : State, CoreInv s ∧ s.op = .init .sendIfCond ∧ s.micro = .respond ∧ s.status = 0x01
      ∧ s.extra = ⟨0, 0, 0xF1, 0xAA⟩ ∧ Quad.voltage ⟨0, 0, 0xF1, 0xAA⟩ = s.params.vhsCode
      ∧ Quad.pattern ⟨0, 0, 0xF1, 0xAA⟩ = s.params.checkPattern)
      ∧ (∃ s : State, CoreInv s ∧ s.op = .init .sendIfCond ∧ s.micro = .respond ∧ s.status = 0x01
        ∧ s.extra = ⟨0, 0, 2, 0xAA⟩ ∧ Quad.voltage ⟨0, 0, 2, 0xAA⟩ ≠ s.params.vhsCode ∧ s.vpCnt < s.params.nVp)
      ∧ (∃ s : State, CoreInv s ∧ s.op = .init .sendIfCond ∧ s.micro = .respond ∧ s.status = 0x01
        ∧ s.extra = ⟨0, 0, 1, 0x55⟩ ∧ Quad.pattern ⟨0, 0, 1, 0x55⟩ ≠ s.params.checkPattern
        ∧ s.vpCnt = s.params.nVp) := by
  refine ⟨⟨responded smallParams .sendIfCond none 0x01 ⟨0, 0, 0xF1, 0xAA⟩,
      responded_inv (by decide +kernel) rfl (by decide), by decide +kernel⟩,
    ⟨responded smallParams .sendIfCond none 0x01 ⟨0, 0, 2, 0xAA⟩,
      responded_inv (by decide +kernel) rfl (by decide), by decide +kernel⟩,
    ⟨responded { smallParams with nVp := 1 } .sendIfCond none 0x01 ⟨0, 0, 1, 0x55⟩,
      responded_inv (by decide +kernel) rfl (by decide), by decide +kernel⟩⟩

/-- Idle with an iteration left, idle on the last, ready for a V1 card, ready for a V2 card. -/
theorem test_meets_IdleFlagDecidesOpCondWait :
    let at_ (p : Params) (v : CardVersion) (st : Byte) (f : State → Prop) : Prop :=
      ∃ s : State, s.params = p ∧ CoreInv s ∧ s.op = .init .sdSendOpCond ∧ s.micro = .respond ∧ s.status = st ∧ errorBits st = 0
        ∧ s.version = some v ∧ 3 ≤ s.answers.length ∧ f s
    at_ smallParams .v2 0x01 (fun s => s.ocCnt < s.params.nOc)
      ∧ at_ { perParams with nOc := 1 } .v2 0x01 (fun s => s.ocCnt = s.params.nOc)
      ∧ at_ smallParams .v1 0x00 (fun _ => (0x00 : Byte).getLsbD 0 = false)
      ∧ at_ perParams .v2 0x80 (fun _ => (0x80 : Byte).getLsbD 0 = false) :=
  ⟨⟨responded smallParams .sdSendOpCond (some .v2) 0x01 ⟨0, 0, 0, 0⟩, rfl, responded_inv (by decide +kernel) rfl (by decide),
      by decide +kernel⟩,
    ⟨responded { perParams with nOc := 1 } .sdSendOpCond (some .v2) 0x01 ⟨0, 0, 0, 0⟩, rfl,
      responded_inv (by decide +kernel) rfl (by decide), by decide +kernel⟩,
    ⟨responded smallParams .sdSendOpCond (some .v1) 0x00 ⟨0, 0, 0, 0⟩, rfl, responded_inv (by decide +kernel) rfl (by decide),
      by decide +kernel⟩,
    ⟨responded perParams .sdSendOpCond (some .v2) 0x80 ⟨0, 0, 0, 0⟩, rfl, responded_inv (by decide +kernel) rfl (by decide),
      by decide +kernel⟩⟩

/-- INIT of a V1 card at its end, with a speed-up. -/
def finishing : State :=
  { State.reset with
    params := testParams, busy := true, state := .capacityProbe, op := .init .sdSendOpCond, micro := .finish, owned := true
    version := some .v1, capacity := some .standard, speedupReq := true, csLevel := .high }

theorem finishing_inv : CoreInv finishing :=
  coreInv_busy (bounds_of (by decide +kernel)) rfl ⟨⟨rfl, rfl, rfl⟩, rfl, rfl⟩

theorem test_meets_ReadyActions : finishing.busy = true ∧ finishing.micro = .finish ∧ finishing.capacity = some .standard :=
  ⟨rfl, rfl, rfl⟩

theorem test_meets_AbortAfterUnwinding :
    let s : State := { inInit perParams .readOcr (some .v2) (.csHigh (some .responseTimeout)) with answers := [⟨true, 0⟩] }
    s.busy = true ∧ s.op = .init .readOcr ∧ s.micro = .csHigh (some .responseTimeout) ∧ s.answers = ⟨true, 0⟩ :: []
      ∧ ¬ (InitCmd.readOcr = .sendIfCond ∧ Err.responseTimeout = .commandRejected .illegalCommand) := by decide +kernel

/-- A rejected GO_IDLE_STATE; an answer that raises each of the four other errors. -/
theorem test_meets_OtherCommandErrorsAreFatal :
    let meets (p : Params) (c : InitCmd) (m : Micro) (x : Answer) (e : Err) : Prop :=
      ∃ s : State, s.params = p ∧ CoreInv s ∧ s.busy = true ∧ s.op = .init c ∧ s.micro = m ∧ s.raisedBy x e
        ∧ s.answers = [x, .done]
    (∃ s : State, CoreInv s ∧ s.op = .init .goIdle ∧ s.micro = .respond ∧ s.status = 0x05
        ∧ statusError 0x05 = some .illegalCommand ∧ 1 ≤ s.answers.length)
      ∧ meets { perParams with nReady := 1 } .goIdle .readyXfer (.byteOf 0x00) .readyTimeout
      ∧ meets { smallParams with nResp := 1 } .sendIfCond .pollXfer (.byteOf 0xFF) .responseTimeout
      ∧ meets perParams .appCmd .pollXfer ⟨true, 0⟩ .busTransferFault
      ∧ meets smallParams .readOcr .frameWrite ⟨true, 0⟩ .busWriteFault :=
  ⟨⟨responded smallParams .goIdle none 0x05 ⟨0, 0, 0, 0⟩, responded_inv (by decide +kernel) rfl (by decide),
      by decide +kernel⟩,
    ⟨{ inInit { perParams with nReady := 1 } .goIdle none .readyXfer with answers := [.byteOf 0x00, .done] }, rfl,
      coreInv_inInit (c := .goIdle) (bounds_of (by decide +kernel)) rfl rfl ⟨rfl, rfl, rfl, rfl, rfl, rfl, rfl⟩
        ⟨by decide +kernel, by decide +kernel⟩, rfl, rfl, rfl, ⟨rfl, rfl, by decide, rfl⟩, rfl⟩,
    ⟨{ inInit { smallParams with nResp := 1 } .sendIfCond none .pollXfer with answers := [.byteOf 0xFF, .done] }, rfl,
      coreInv_inInit (c := .sendIfCond) (bounds_of (by decide +kernel)) rfl rfl ⟨rfl, rfl, rfl, rfl, rfl, rfl, rfl⟩
        ⟨rfl, by decide +kernel, by decide +kernel⟩, rfl, rfl, rfl, ⟨rfl, rfl, rfl, rfl⟩, rfl⟩,
    ⟨{ inInit perParams .appCmd (some .v1) .pollXfer with answers := [⟨true, 0⟩, .done] }, rfl,
      coreInv_inInit (c := .appCmd) (bounds_of (by decide +kernel)) rfl rfl ⟨rfl, rfl, rfl, rfl, rfl, rfl, rfl⟩
        ⟨rfl, by decide +kernel, by decide +kernel⟩, rfl, rfl, rfl, ⟨.inr (.inl rfl), rfl⟩, rfl⟩,
    ⟨{ inInit smallParams .readOcr (some .v2) .frameWrite with answers := [⟨true, 0⟩, .done] }, rfl,
      coreInv_inInit (c := .readOcr) (bounds_of (by decide +kernel)) rfl rfl ⟨rfl, rfl, rfl, rfl, rfl, rfl, rfl⟩
        ⟨_, rfl, rfl⟩, rfl, rfl, rfl, ⟨rfl, rfl⟩, rfl⟩⟩

/-- INIT in the assertion or the restore of a scope, whose answer is a fault. -/
def scopeFaulting (p : Params) (c : InitCmd) (v : Option CardVersion) (st : Stage) (m : Micro) (isOpen : Bool) : State :=
  { inInit p c v m with
    state := st, scopeOpen := isOpen, capacity := some .standard, status := 0x00, extra := ⟨0, 0, 0, 0⟩
    answers := [⟨true, 0⟩] }

/-- The assertion and the restore, under each scope. -/
theorem test_meets_ScopeFaultsEndInit :
    (∃ s : State, CoreInv s ∧ s.busy = true ∧ s.op = .init .goIdle ∧ s.answers = [⟨true, 0⟩] ∧ s.micro = .csLow
        ∧ s.params.csScope = .wholeHandshake)
      ∧ (∃ s : State, CoreInv s ∧ s.busy = true ∧ s.op = .init .sdSendOpCond ∧ s.answers = [⟨true, 0⟩]
        ∧ s.micro = .csHigh none ∧ s.params.csScope = .wholeHandshake)
      ∧ (∃ s : State, CoreInv s ∧ s.busy = true ∧ s.op = .init .crcOnOff ∧ s.answers = [⟨true, 0⟩] ∧ s.micro = .csLow
        ∧ s.params.csScope = .perCommand)
      ∧ (∃ s : State, CoreInv s ∧ s.busy = true ∧ s.op = .init .readOcr ∧ s.answers = [⟨true, 0⟩]
        ∧ s.micro = .csHigh none ∧ s.params.csScope = .perCommand) :=
  ⟨⟨scopeFaulting smallParams .goIdle none .powerUp .csLow false,
      coreInv_busy (bounds_of (by decide +kernel)) rfl ⟨⟨rfl, rfl, rfl, rfl⟩, rfl, rfl⟩, by decide +kernel⟩,
    ⟨scopeFaulting smallParams .sdSendOpCond (some .v1) .capacityProbe (.csHigh none) true,
      coreInv_busy (bounds_of (by decide +kernel)) rfl
        ⟨⟨rfl, fun _ h => (nomatch h), rfl, by decide, fun _ => ⟨rfl, rfl⟩⟩, rfl, rfl⟩, by decide +kernel⟩,
    ⟨scopeFaulting perParams .crcOnOff (some .v1) .crcEnable .csLow false,
      coreInv_busy (bounds_of (by decide +kernel)) rfl ⟨⟨rfl, rfl, rfl⟩, rfl, rfl⟩, by decide +kernel⟩,
    ⟨scopeFaulting perParams .readOcr (some .v2) .capacityProbe (.csHigh none) true,
      coreInv_busy (bounds_of (by decide +kernel)) rfl
        ⟨⟨rfl, fun _ h => (nomatch h), rfl, rfl⟩, rfl, rfl⟩, by decide +kernel⟩⟩

/-- A card that mismatches once, then is judged by `ifCond`, and is idle once; late at every command. -/
def testCard (ifCond : Byte) : Card :=
  ⟨lateReply 0x01, [(lateReply 0x01, ⟨0, 0, 2, 0xAA⟩)], lateReply ifCond, lateReply 0x01, [(lateReply 0x01, lateReply 0x01)],
    lateReply 0x01, lateReply 0x00⟩

theorem testCard_passes {b : Byte} {p : Params} (h : p = smallParams ∨ p = perParams) (hb : b ≠ 0xFF) :
    (testCard b).Passes p := by
  have hok : (lateReply 0x01).ok p := lateReply_ok h (by decide) (by decide)
  refine ⟨hok, lateReply_arrives h hb, hok, hok, lateReply_ok h (by decide) (by decide), ?_, ?_, ?_, ?_, ?_⟩
  · show (0x00 : Byte).getLsbD 0 = false
    decide
  · show 1 < p.nVp
    rcases h with rfl | rfl <;> decide +kernel
  · intro m hm
    simp only [testCard, List.mem_singleton] at hm
    subst hm
    exact ⟨hok, .inl (by rcases h with rfl | rfl <;> decide +kernel)⟩
  · show 1 < p.nOc
    rcases h with rfl | rfl <;> decide +kernel
  · intro d hd
    simp only [testCard, List.mem_singleton] at hd
    subst hd
    exact ⟨hok, hok, by show (0x01 : Byte).getLsbD 0 = true; decide⟩

theorem test_meets_InitCompletesForVersionOne :
    smallParams.wf = true ∧ (testCard 0x05).Passes smallParams ∧ (testCard 0x05).ifCond.status.getLsbD 2 = true :=
  ⟨by decide +kernel, testCard_passes (.inl rfl) (by decide), by show (0x05 : Byte).getLsbD 2 = true; decide⟩

theorem test_meets_InitCompletesForVersionTwo :
    perParams.wf = true ∧ (testCard 0x01).Passes perParams ∧ (testCard 0x01).ifCond.ok perParams
      ∧ Quad.voltage ⟨0, 0, 1, 0xAA⟩ = perParams.vhsCode ∧ Quad.pattern ⟨0, 0, 1, 0xAA⟩ = perParams.checkPattern
      ∧ (lateReply 0x00).ok perParams :=
  ⟨by decide +kernel, testCard_passes (.inr rfl) (by decide), lateReply_ok (.inr rfl) (by decide) (by decide),
    by decide +kernel, by decide +kernel, lateReply_ok (.inr rfl) (by decide) (by decide)⟩

/-- As many answers as the bound of the small parameters. -/
theorem test_meets_InitTerminates :
    let s : State := { testState with params := smallParams, answers := List.replicate smallParams.initCalls .done }
    s.params.wf = true ∧ s.host = [] ∧ s.params.initCalls ≤ s.answers.length
      ∧ nextIs (fun _ => true) (exec (.init false) s) = true := by decide +kernel

/-- The figures of R186. -/
theorem test_initCalls : testParams.initCalls = 464606 ∧ { testParams with csScope := .perCommand }.initCalls = 477420 := by
  decide +kernel

/-- From APP_CMD's response, four steps to the write of ACMD41. -/
theorem test_meets_AppCommandAdjacency :
    let s : State := { responded smallParams .appCmd (some .v2) 0x01 ⟨0, 0, 0, 0⟩ with
      answers := [.byteOf 0xFF, .done] }
    CoreInv s ∧ s.host = [] ∧ errorBits 0x01 = 0
      ∧ nextIs (fun t => t.trace == s.trace ++ [.xfer 0xFF (some 0xFF)]
          ++ .write [0x69, 0x40, 0, 0, 0, 0x77] true :: []) (runs 4 s) = true := by
  refine ⟨?_, rfl, rfl, by decide +kernel⟩
  exact coreInv_inInit (c := .appCmd) (bounds_of (by decide +kernel)) rfl rfl ⟨rfl, rfl, rfl, rfl, rfl, rfl, rfl⟩
    ⟨rfl, by decide⟩

/-- States with the invariant that step on: at rest, in a command, at the end of INIT. -/
theorem test_meets_StepKeepsTheInvariant :
    (∃ t, CoreInv polling ∧ step polling = .next t) ∧ (∃ t, CoreInv finishing ∧ step finishing = .next t) :=
  ⟨⟨_, polling_inv, rfl⟩, ⟨_, finishing_inv, rfl⟩⟩

/-- A request of its own at the port of a CORE at rest, with the invariant. -/
theorem offering_inv (r : Request) : CoreInv (offering r) :=
  coreInv_rest ⟨by rfl, by simp [offering, testState, State.reset], Nat.zero_le _, Nat.zero_le _, Nat.zero_le _, Nat.zero_le _⟩
    rfl ⟨rfl, rfl, rfl, rfl, rfl, rfl⟩

/-- INIT accepted moves `state`, and neither premise of TransitionTable stands in its way. -/
theorem test_meets_TransitionTable :
    ∃ t, CoreInv (offering (Request.ofOp 0xB)) ∧ step (offering (Request.ofOp 0xB)) = .next t
      ∧ (offering (Request.ofOp 0xB)).host.head? ≠ some .reset ∧ t.state = .powerUp :=
  ⟨_, offering_inv _, rfl, by decide +kernel, rfl⟩

/-- The two faults, with the invariant. -/
theorem test_meets_OnlyTheTwoProgrammerFaults :
    (CoreInv (offering { Request.ofOp 0x2 with len := 5 })
        ∧ step (offering { Request.ofOp 0x2 with len := 5 }) = .fault .bufferTooShort)
      ∧ (CoreInv (offering { Request.ofOp 0x6 with bytes := [1, 2, 3] })
        ∧ step (offering { Request.ofOp 0x6 with bytes := [1, 2, 3] }) = .fault .illegalRequest) :=
  ⟨⟨offering_inv _, rfl⟩, ⟨offering_inv _, rfl⟩⟩

/-- A step that ends an operation and one that does not. -/
theorem test_meets_OneResultPerOperation :
    nextIs (fun t => !t.busy && t.rsp == [⟨true, .capacity .standard, none, true⟩]) (step finishing) = true
      ∧ nextIs (fun t => t.busy && t.rsp == []) (step polling) = true := by decide +kernel

theorem test_meets_OnlyInitWritesTheHandshakeRegisters :
    ∃ t, CoreInv polling ∧ step polling = .next t ∧ (∀ c, polling.op ≠ .init c) ∧ polling.busy = true :=
  ⟨_, polling_inv, rfl, ⟨fun _ h => (nomatch h), rfl⟩⟩

/-- The three ways a step treats calls: none, one, the speed-up. -/
theorem test_meets_OneEventPerCall :
    nextIs (fun t => t.trace == []) (step testState) = true
      ∧ nextIs (fun t => t.trace == [.xfer 0xFF (some 0x01)] && t.answers == []) (step polling) = true
      ∧ nextIs (fun t => t.trace == [.spd]) (step finishing) = true := by decide +kernel

theorem test_meets_UnansweredCallWaits :
    let s : State := inCmd .readyXfer .r1
    s.busy = true ∧ pendingCall s = some (.xfer 0xFF) ∧ s.answers = [] := by decide +kernel

theorem test_meets_RequestsAreHeldWhileBusy :
    polling.busy = true
      ∧ nextIs (fun t => t.host == [.request (Request.ofOp 0x8)])
          (step { polling with host := [.request (Request.ofOp 0x8)] }) = true := by decide +kernel

/-- The dummy bytes of PowerUp, and a frame. -/
theorem test_meets_EveryWriteIsWellFormed :
    nextIs (fun t => t.trace == [.write (List.replicate 10 0xFF) true]) (step { State.reset with
        params := testParams, busy := true, state := .powerUp, op := .init .goIdle, micro := .powerUpWrite, csLevel := .high
        owned := true, answers := [.done] }) = true
      ∧ nextIs (fun t => t.trace == [.write [0x51, 0, 0, 0, 0, 0x55] true])
          (step { inCmd .frameWrite .r1 with answers := [.done] }) = true := by decide +kernel

/-- A state of its invariant that is about to send. -/
theorem test_meets_FramesFollowTheSentinel :
    CoreInv sendingOpCond ∧ sendingOpCond.micro = .sendFrame
      ∧ sendingOpCond.trace.getLast? = some (.xfer sendingOpCond.params.placeholder (some 0xFF))
      ∧ nextIs (fun t => t.micro == .frameWrite) (step sendingOpCond) = true :=
  ⟨sendingOpCond_inv, rfl, by decide +kernel, by decide +kernel⟩

/-- Other values than reset's in all eight registers, and a CORE at rest with a request to run. -/
theorem test_meets_UnsetRegistersAreNeverRead :
    let s : State := { offering { Request.ofOp 0x9 with index := 17 } with
      answers := [.byteOf 0xFF, .done, .byteOf 0x01] }
    let u : State := { inInit perParams .readOcr (some .v2) .respond with
      crc := 0x55, status := 0x7F, extra := ⟨1, 2, 3, 4⟩, capacity := some .standard, failState := .ready }
    s.busy = false ∧ s ≠ s.withUnset u
      ∧ nextIs (fun t => nextIs (fun t' => t' == t.withUnset t' && t.rsp == [⟨true, .cmd ⟨0x01, none⟩, none, false⟩])
          (runs 6 (s.withUnset u))) (runs 6 s) = true := by decide +kernel

end Sys2Proof.Machine
end

/-! PROOFS. The calls a step answers and records (00_scope.md R13, 10_state.md R40). Whichever way the running rule goes
from one call to the next, it leaves the parameters, the request port, the answers to come and the trace alone: an answer is
taken and an event recorded only at the call itself and at the speed-up. `step_outside` says so of a whole step. -/

namespace Sys2Proof.Machine

/-! ## What lies outside the registers -/

/-- What lies outside the registers and the response port: the parameters (10_state.md R43), the request port (R41), and the
two ends of the capability port (R40), the answers to come and the trace. -/
structure Outside where
  params : Params
  host : List HostInput
  answers : List Answer
  trace : List Event

/-- The part of a state that lies outside its registers. -/
def State.outside (s : State) : Outside := ⟨s.params, s.host, s.answers, s.trace⟩

variable {s t : State}

/-! ## The stages of INIT -/

@[simp] theorem initRaise_outside (e : Err) (s : State) : (initRaise e s).outside = s.outside := by
  unfold initRaise
  split <;> rfl

@[simp] theorem endStages_outside (s : State) : (endStages s).outside = s.outside := by
  unfold endStages
  split <;> rfl

theorem runCmd_outside {c : InitCmd} (h : runCmd c s = .next t) : t.outside = s.outside := by
  obtain ⟨_, -, h⟩ := readClass_next h
  cases h
  rfl

theorem startCmd_outside {c : InitCmd} (h : startCmd c s = .next t) : t.outside = s.outside := by
  unfold startCmd at h
  split at h
  · exact (runCmd_outside h).trans rfl
  · cases h; rfl

theorem versionAttempt_outside (h : versionAttempt s = .next t) : t.outside = s.outside := by
  unfold versionAttempt at h
  split at h
  · cases h; exact initRaise_outside _ s
  · exact (startCmd_outside h).trans rfl

theorem opCondIteration_outside (h : opCondIteration s = .next t) : t.outside = s.outside := by
  unfold opCondIteration at h
  split at h
  · cases h; exact initRaise_outside _ s
  · exact (startCmd_outside h).trans rfl

theorem enterCapacityProbe_outside (h : enterCapacityProbe s = .next t) : t.outside = s.outside := by
  obtain ⟨v, -, h⟩ := readClass_next h
  cases v
  case v1 => cases h; exact endStages_outside _
  case v2 => exact (startCmd_outside h).trans rfl

theorem judgeEcho_outside (h : judgeEcho s = .next t) : t.outside = s.outside := by
  unfold judgeEcho at h
  split at h
  · exact (startCmd_outside h).trans rfl
  · exact versionAttempt_outside h

theorem judgeIdle_outside (h : judgeIdle s = .next t) : t.outside = s.outside := by
  unfold judgeIdle at h
  split at h
  · cases h; rfl
  · exact enterCapacityProbe_outside h

theorem stageOk_outside {c : InitCmd} (h : stageOk c s = .next t) : t.outside = s.outside := by
  cases c
  case goIdle => exact (versionAttempt_outside h).trans rfl
  case sendIfCond => exact judgeEcho_outside h
  case crcOnOff => exact (opCondIteration_outside h).trans rfl
  case appCmd => exact startCmd_outside h
  case sdSendOpCond => exact judgeIdle_outside h
  case readOcr => cases h; exact endStages_outside _

theorem stageErr_outside {c : InitCmd} {e : Err} (h : stageErr c e s = .next t) : t.outside = s.outside := by
  unfold stageErr at h
  split at h
  · exact (startCmd_outside h).trans rfl
  · cases h; exact initRaise_outside e s

/-! ## The parts of `wait_ready`, of EXEC_CMD and of a scope -/

theorem raise_outside {e : Err} (h : raise e s = .next t) : t.outside = s.outside := by
  cases hop : s.op with
  | none | waitReady | execCmd | withCsLow => simp only [raise, hop] at h; cases h; rfl
  | init =>
    simp only [raise, hop] at h
    split at h
    · exact stageErr_outside h
    · cases h; rfl

@[simp] theorem nextElem_outside (body : List BodyElem) (done : List BodyResult) (s : State) :
    (nextElem body done s).outside = s.outside := by
  unfold nextElem
  split <;> rfl

@[simp] theorem readyOk_outside (s : State) : (readyOk s).outside = s.outside := by
  unfold readyOk plainReadyOk
  split
  · split
    · exact nextElem_outside _ _ _
    · rfl
  · rfl

theorem cmdOk_outside {r : CmdResult} (h : cmdOk r s = .next t) : t.outside = s.outside := by
  cases hop : s.op with
  | none | waitReady | execCmd => simp only [cmdOk, hop] at h; cases h; rfl
  | withCsLow => simp only [cmdOk, hop] at h; cases h; exact nextElem_outside _ _ s
  | init =>
    simp only [cmdOk, hop] at h
    split at h
    · exact stageOk_outside h
    · cases h; rfl

theorem pollAttempt_outside (h : pollAttempt s = .next t) : t.outside = s.outside := by
  unfold pollAttempt at h
  split at h
  · exact raise_outside h
  · cases h; rfl

theorem readyByte_outside {b : Byte} (h : readyByte b s = .next t) : t.outside = s.outside := by
  unfold readyByte at h
  split at h
  · cases h; exact readyOk_outside s
  · split at h
    · exact raise_outside h
    · cases h; rfl

@[simp] theorem statusByte_outside (b : Byte) (s : State) : (statusByte b s).outside = s.outside := by
  unfold statusByte
  dsimp only
  split <;> rfl

theorem pollByte_outside {b : Byte} (h : pollByte b s = .next t) : t.outside = s.outside := by
  unfold pollByte at h
  split at h
  · exact pollAttempt_outside h
  · cases h; exact statusByte_outside b s

@[simp] theorem extraByte_outside (k : Fin 4) (b : Byte) (s : State) : (extraByte k b s).outside = s.outside := by
  unfold extraByte
  dsimp only
  split <;> rfl

theorem csLowAnswered_outside {fault : Bool} (h : csLowAnswered fault s = .next t) : t.outside = s.outside := by
  unfold csLowAnswered at h
  dsimp only at h
  split at h
  · split at h
    · split at h
      · cases h; exact initRaise_outside _ _
      · exact (stageErr_outside h).trans rfl
    · cases h; rfl
  · split at h
    · cases h; exact nextElem_outside _ _ _
    · split at h
      · exact (startCmd_outside h).trans rfl
      · exact (runCmd_outside h).trans rfl
    · cases h; rfl

theorem csHighAnswered_outside {inFlight : Option Err} {fault : Bool} (h : csHighAnswered inFlight fault s = .next t) :
    t.outside = s.outside := by
  unfold csHighAnswered at h
  dsimp only at h
  split at h
  · cases h; rfl
  · split at h
    · cases h; rfl
    · exact (stageOk_outside h).trans rfl
  · split at h
    · cases h; rfl
    · exact (stageErr_outside h).trans rfl
  · cases h; rfl
  · cases h; rfl

@[simp] theorem powerUpCsAnswered_outside (fault : Bool) (s : State) : (powerUpCsAnswered fault s).outside = s.outside := by
  unfold powerUpCsAnswered
  dsimp only
  split
  · exact initRaise_outside _ _
  · rfl

theorem powerUpWritten_outside {fault : Bool} (h : powerUpWritten fault s = .next t) : t.outside = s.outside := by
  unfold powerUpWritten at h
  split at h
  · cases h; exact initRaise_outside _ s
  · split at h
    · cases h; rfl
    · exact (startCmd_outside h).trans rfl

/-! ## The meanings of the rows -/

theorem receive_outside {status : Byte} {extra : Option Quad} (h : receive status extra s = .next t) :
    t.outside = s.outside := by
  unfold receive at h
  dsimp only at h
  split at h
  · exact (raise_outside h).trans rfl
  · exact (cmdOk_outside h).trans rfl

theorem respond_outside {status : Byte} {echo : Option Quad} (h : respond status echo s = .next t) :
    t.outside = s.outside := by
  unfold respond at h
  split at h
  · exact pollAttempt_outside h
  · exact receive_outside h

/-- No meaning takes an answer or records an event: a meaning runs from a request, or from an answer that has been taken, up to
its next call. -/
theorem exec_outside {i : Instr} (h : exec i s = .next t) : t.outside = s.outside := by
  cases i with
  | crc7 | waitReady | init | cmdN | goIdleState | sendIfCond | crcOnOff | appCmd | sdSendOpCond | readOcr => cases h; rfl
  | respR1 | respR3 | respR7 => exact respond_outside h
  | encode =>
    simp only [exec, execEncode] at h
    split at h <;> cases h
    rfl
  | decodeCmd =>
    simp only [exec, execDecodeCmd] at h
    split at h <;> cases h
    rfl
  | statusCheckError =>
    simp only [exec, execStatusCheckError] at h
    split at h
    · split at h <;> cases h <;> rfl
    · cases h
  | statusIsTruncated =>
    simp only [exec, execStatusIsTruncated] at h
    split at h <;> cases h
    rfl
  | checkIfEcho =>
    simp only [exec, execCheckIfEcho] at h
    split at h
    · cases h
    · split at h <;> cases h <;> rfl
  | capacityFromOcr =>
    simp only [exec, execCapacityFromOcr] at h
    split at h <;> cases h
    rfl
  | execCmd =>
    simp only [exec, execExecCmd] at h
    split at h <;> cases h
    rfl
  | withCsLow =>
    simp only [exec, execWithCsLow] at h
    split at h <;> cases h
    rfl

/-! ## The answer to a call and the Ready actions -/

/-- The event of the answered call is all that the running rule records as it goes on. -/
theorem resume_outside {a : Answer} {call : Call} (hc : pendingCall s = some call) (h : resume a s = .next t) :
    t.outside = (logEvent (call.event a) s).outside := by
  simp only [resume, hc, logEvent_micro] at h
  cases hm : s.micro <;> simp only [hm] at h
  case readyXfer =>
    split at h
    · exact raise_outside h
    · exact readyByte_outside h
  case frameWrite =>
    split at h
    · exact raise_outside h
    · exact (pollAttempt_outside h).trans rfl
  case pollXfer =>
    split at h
    · exact raise_outside h
    · exact pollByte_outside h
  case extraXfer =>
    split at h
    · exact raise_outside h
    · cases h; exact extraByte_outside _ _ _
  case csLow => exact csLowAnswered_outside h
  case csHigh => exact csHighAnswered_outside h
  case powerUpCsHigh => cases h; exact powerUpCsAnswered_outside _ _
  case powerUpWrite => exact powerUpWritten_outside h
  case opCondDelay => exact opCondIteration_outside h
  case readyDelay | powerUpDelay => cases h; rfl
  all_goals simp [pendingCall, hm] at hc

theorem finishInit_outside (h : finishInit s = .next t) :
    t.outside = (if s.speedupReq then logEvent .spd s else s).outside := by
  obtain ⟨_, -, h⟩ := readClass_next h
  cases h
  rfl

/-! ## The step -/

/-- While a call is out, a step looks for its answer and for nothing else. -/
theorem step_of_pendingCall {call : Call} (hb : s.busy = true) (hc : pendingCall s = some call) :
    step s = match s.answers with
      | [] => .next s
      | a :: rest => resume a { s with answers := rest } := by
  have hf : fetchBusy s = fetchAnswer s := by
    unfold pendingCall at hc
    unfold fetchBusy
    split at hc <;> simp_all
  simp only [step, fetch, hb, if_true, hf, fetchAnswer]
  cases s.answers <;> rfl

/-- A step of a CORE at rest takes at most what the host offers first. -/
theorem step_rest_outside (hb : s.busy = false) (h : step s = .next t) :
    t.outside = { s with host := s.host.tail }.outside := by
  cases hh : s.host with
  | nil =>
    rw [step_idle hb hh] at h
    cases h
    simp [State.outside, hh]
  | cons input rest =>
    cases input with
    | reset =>
      rw [step_reset hb hh] at h
      cases h
      rfl
    | request r =>
      cases hd : decodeRequest r with
      | error e => rw [step_refuse hb hh hd] at h; cases h
      | ok i => rw [step_request hb hh hd] at h; exact exec_outside h

/-- A busy step with no call out runs a pure part, which records nothing, or the Ready actions. -/
theorem step_pure_outside (hb : s.busy = true) (hc : pendingCall s = none) (h : step s = .next t) :
    t.outside = s.outside
      ∨ (s.micro = .finish ∧ s.speedupReq = true ∧ t.outside = (logEvent .spd s).outside) := by
  cases hm : s.micro
  case idle =>
    simp only [step, fetch, fetchBusy, hb, hm, if_true] at h
    cases h
    exact .inl rfl
  case sendFrame =>
    simp only [step, fetch, fetchBusy, fetchFrame, hb, hm, if_true] at h
    cases hcmd : s.cmd with
    | none => simp only [hcmd] at h; cases h; exact .inl rfl
    | some c => simp only [hcmd] at h; exact .inl (exec_outside h)
  case respond =>
    simp only [step, fetch, fetchBusy, fetchResponse, hb, hm, if_true] at h
    exact .inl (exec_outside h)
  case finish =>
    rw [step_finish hb hm] at h
    have hout := finishInit_outside h
    cases hsp : s.speedupReq
    · exact .inl (by simpa [hsp] using hout)
    · exact .inr ⟨rfl, rfl, by simpa [hsp] using hout⟩
  all_goals simp [pendingCall, hm] at hc

/-- What a step can do outside the registers: take what the host offers first, nothing, take the answer to the outstanding call
and record that call with it, or record the speed-up. -/
theorem step_outside (h : step s = .next t) :
    (s.busy = false ∧ t.outside = { s with host := s.host.tail }.outside)
      ∨ (s.busy = true ∧ t.outside = s.outside)
      ∨ (∃ (call : Call) (a : Answer) (rest : List Answer), s.busy = true ∧ pendingCall s = some call ∧ s.answers = a :: rest
          ∧ t.outside = (logEvent (call.event a) { s with answers := rest }).outside)
      ∨ (s.busy = true ∧ s.micro = .finish ∧ s.speedupReq = true ∧ t.outside = (logEvent .spd s).outside) := by
  cases hb : s.busy
  case false => exact .inl ⟨rfl, step_rest_outside hb h⟩
  case true =>
    cases hc : pendingCall s with
    | none =>
      rcases step_pure_outside hb hc h with hout | ⟨hm, hsp, hout⟩
      · exact .inr (.inl ⟨rfl, hout⟩)
      · exact .inr (.inr (.inr ⟨rfl, hm, hsp, hout⟩))
    | some call =>
      rw [step_of_pendingCall hb hc] at h
      cases ha : s.answers with
      | nil => simp only [ha] at h; cases h; exact .inr (.inl ⟨rfl, rfl⟩)
      | cons a rest =>
        simp only [ha] at h
        exact .inr (.inr (.inl ⟨call, a, rest, rfl, rfl, rfl, resume_outside (s := { s with answers := rest }) hc h⟩))

/-- Settles O52: the four things a step can do outside the registers (`step_outside`), read at the trace and the answers. -/
theorem oneEventPerCall : Obligations.OneEventPerCall := by
  intro s t h
  rcases step_outside h with ⟨-, hout⟩ | ⟨-, hout⟩ | ⟨call, a, rest, hb, hc, ha, hout⟩ | ⟨hb, hm, hsp, hout⟩
  all_goals
    have htrace := congrArg Outside.trace hout
    have hanswers := congrArg Outside.answers hout
  · exact .inl ⟨htrace, hanswers⟩
  · exact .inl ⟨htrace, hanswers⟩
  · have hrest : t.answers = rest := hanswers
    refine .inr (.inl ⟨call, a, hb, hc, hrest ▸ ha, htrace.trans ?_⟩)
    cases call <;> rfl
  · exact .inr (.inr ⟨hb, hm, hsp, htrace, hanswers⟩)

end Sys2Proof.Machine

/-! PROOFS. The invariant of the machine (10_state.md R22, R39, R45). A step runs one of the few things that
`step_rest_cases` and `step_busy_cases` list, and each of them keeps `CoreInv`. After it, what needs no invariant: the parameters,
the tables of codes and the values at reset and on INIT entry. -/

namespace Sys2Proof.Machine

variable {s t : State}

/-! ## What a step runs -/

/-- A CORE at rest waits, is reset, or takes or refuses the request the host offers first. -/
theorem step_rest_cases (hb : s.busy = false) :
    step s = .next s
      ∨ (∃ rest, s.host = .reset :: rest ∧ step s = .next (applyReset { s with host := rest }))
      ∨ ∃ r rest, s.host = .request r :: rest ∧ (step s = .fault .illegalRequest
          ∨ ∃ i, decodeRequest r = .ok i ∧ step s = exec i { s with host := rest }) := by
  cases hh : s.host with
  | nil => exact .inl (step_idle hb hh)
  | cons input rest =>
    cases input with
    | reset => exact .inr (.inl ⟨rest, rfl, step_reset hb hh⟩)
    | request r =>
      refine .inr (.inr ⟨r, rest, rfl, ?_⟩)
      cases hd : decodeRequest r with
      | error e => exact .inl (step_refuse hb hh hd)
      | ok i => exact .inr ⟨i, rfl, step_request hb hh hd⟩

/-- A busy CORE waits, runs one of the three pure parts, or takes the answer to the outstanding call. -/
theorem step_busy_cases (hb : s.busy = true) :
    step s = .next s
      ∨ (∃ c, s.micro = .sendFrame ∧ s.cmd = some c ∧ step s = .next (sendCommand c.index c.arg s))
      ∨ (s.micro = .respond ∧ step s = exec (responseOf s.shape s.status s.extra) s)
      ∨ (s.micro = .finish ∧ step s = finishInit s)
      ∨ ∃ call a rest, pendingCall s = some call ∧ s.answers = a :: rest
          ∧ step s = resume a { s with answers := rest } := by
  cases hc : pendingCall s with
  | some call =>
    have hstep := step_of_pendingCall hb hc
    cases ha : s.answers with
    | nil => exact .inl (by rw [hstep, ha])
    | cons a rest => exact .inr (.inr (.inr (.inr ⟨call, a, rest, rfl, rfl, by rw [hstep, ha]⟩)))
  | none =>
    cases hm : s.micro
    case idle => exact .inl (by simp [step, fetch, fetchBusy, hb, hm])
    case sendFrame =>
      cases hcmd : s.cmd with
      | none => exact .inl (by simp [step, fetch, fetchBusy, fetchFrame, hb, hm, hcmd])
      | some c => exact .inr (.inl ⟨c, rfl, rfl, step_sendFrame hb hm hcmd⟩)
    case respond =>
      exact .inr (.inr (.inl ⟨rfl, by simp [step, fetch, fetchBusy, fetchResponse, hb, hm]⟩))
    case finish => exact .inr (.inr (.inr (.inl ⟨rfl, step_finish hb hm⟩)))
    all_goals simp [pendingCall, hm] at hc

/-! ## The invariant -/

/-- Settles O47: nothing runs after reset, every counter is 0, and the default parameters are legal. -/
theorem invariantAtReset : Obligations.InvariantAtReset :=
  coreInv_rest ⟨by decide, by decide, Nat.zero_le _, Nat.zero_le _, Nat.zero_le _, Nat.zero_le _⟩ rfl
    ⟨rfl, rfl, rfl, rfl, rfl, rfl⟩

/-- A reset leaves the parameters, so it leaves them legal; all else is as after reset. -/
theorem applyReset_inv (hi : CoreInv s) : CoreInv (applyReset s) :=
  coreInv_rest ⟨hi.params, by simp, Nat.zero_le _, Nat.zero_le _, Nat.zero_le _, Nat.zero_le _⟩ rfl
    ⟨rfl, rfl, rfl, rfl, rfl, rfl⟩

theorem step_rest_inv (hi : CoreInv s) (hb : s.busy = false) (h : step s = .next t) : CoreInv t := by
  rcases step_rest_cases hb with hs | ⟨rest, -, hs⟩ | ⟨r, rest, -, hs | ⟨i, hd, hs⟩⟩ <;> rw [hs] at h
  · cases h; exact hi
  · cases h; exact applyReset_inv (hi.with_host rest)
  · cases h
  · exact exec_inv (hi.with_host rest) hb h (decodeRequest_format hd)

theorem step_busy_inv (hi : CoreInv s) (hb : s.busy = true) (h : step s = .next t) : CoreInv t := by
  rcases step_busy_cases hb with hs | ⟨c, hm, hc, hs⟩ | ⟨hm, -⟩ | ⟨hm, hs⟩ | ⟨call, a, rest, -, -, hs⟩
  · rw [hs] at h; cases h; exact hi
  · exact sendFrame_inv hi hb hm hc ((exec_commandOf _ _ s).trans (hs.symm.trans h))
  · exact respond_inv hi hb hm h
  · exact finish_inv hi hb hm (hs.symm.trans h)
  · exact resume_inv (hi.with_answers rest) hb (hs.symm.trans h)

/-- Settles O48: whatever a step runs, at rest or busy, keeps the invariant. -/
theorem stepKeepsTheInvariant : Obligations.StepKeepsTheInvariant := by
  intro s t hi h
  cases hb : s.busy
  case false => exact step_rest_inv hi hb h
  case true => exact step_busy_inv hi hb h

/-- Settles O55: the parameters lie outside the registers, and nothing a step does there touches them (`step_outside`). -/
theorem parametersAreConstant : Obligations.ParametersAreConstant := by
  intro s t h
  rcases step_outside h with ⟨-, hout⟩ | ⟨-, hout⟩ | ⟨_, _, _, -, -, -, hout⟩ | ⟨-, -, -, hout⟩
  all_goals exact congrArg Outside.params hout

/-! ## The tables -/

/-- The error a 4-bit code stands for (60_exceptions.md R190): the inverse of `errCodeOf`. The codes 0, 14 and 15 stand for no
error. -/
def errOfCode (code : BitVec 4) : Option Err :=
  match code with
  | 1 => some .chipSelectFault
  | 2 => some .busWriteFault
  | 3 => some .busTransferFault
  | 4 => some .readyTimeout
  | 5 => some .responseTimeout
  | 6 => some (.commandRejected .illegalCommand)
  | 7 => some (.commandRejected .crcError)
  | 8 => some (.commandRejected .eraseSequenceError)
  | 9 => some (.commandRejected .addressError)
  | 10 => some (.commandRejected .parameterError)
  | 11 => some .unexpectedVoltage
  | 12 => some .checkPatternMismatch
  | 13 => some .cardUnusable
  | _ => none

theorem errOfCode_errCodeOf : Function.LeftInverse errOfCode errCodeOf
  | none => rfl
  | some e => by
    cases e
    case commandRejected kind => cases kind <;> rfl
    all_goals rfl

/-- Settles O2: each table by evaluation, and the errors apart because a code gives its error back (`errOfCode_errCodeOf`). -/
theorem codesAreThoseOfTheTables : Obligations.CodesAreThoseOfTheTables :=
  ⟨by decide, rfl, by decide, fun _ _ h => errOfCode_errCodeOf.injective h, by decide, by decide⟩

/-- Settles O32: the reset state and INIT's entry are written out in the model, field by field. -/
theorem resetAndInitEntryValues : Obligations.ResetAndInitEntryValues := by
  refine ⟨by decide, ?_⟩
  intro s speedup
  rfl

end Sys2Proof.Machine

/-! PROOFS. How an operation ends (10_state.md R21, R22, R42; 60_exceptions.md R192, R196, R199). A step from `s` goes on with
the running operation or ends it in one of four ways, and only INIT touches the registers of the handshake: `Proceeds s` lists
what is possible, and each part of a step is shown to do one of these things. -/

namespace Sys2Proof.Machine

/-- The registers INIT alone writes (10_state.md R21, R38; 44_init_fsm.md R160). -/
structure Handshake where
  state : Stage
  vpCnt : Nat
  ocCnt : Nat
  version : Option CardVersion
  capacity : Option CapClass
  failState : Stage
  owned : Bool
  speedupReq : Bool

/-- What a state holds in them. -/
def State.handshake (s : State) : Handshake :=
  ⟨s.state, s.vpCnt, s.ocCnt, s.version, s.capacity, s.failState, s.owned, s.speedupReq⟩

/-- The operation that runs is not INIT. -/
def State.notInit (s : State) : Prop := ∀ c, s.op ≠ .init c

/-- What a step that runs an operation from `s` on can do. The state an operation ends in is that of one of the four ends of
Machine/Ops.lean, taken in a state `u` the step has reached with the operation still running. -/
inductive Proceeds (s : State) : State → Prop
  /-- the operation goes on, with nothing on the response port -/
  | goesOn {t : State} (rsp : t.rsp = s.rsp) (busy : s.busy = true → t.busy = true)
      (keeps : s.notInit → t.handshake = s.handshake) : Proceeds s t
  /-- another operation than INIT returns a value -/
  | returned {u : State} (d : RspData) (notInit : s.notInit) (rsp : u.rsp = s.rsp) (keeps : u.handshake = s.handshake) :
      Proceeds s (returnOk d u)
  /-- another operation than INIT ends in an error -/
  | failed {u : State} (e : Err) (notInit : s.notInit) (rsp : u.rsp = s.rsp) (keeps : u.handshake = s.handshake) :
      Proceeds s (failOp e u)
  /-- INIT aborts in the stage it was in -/
  | aborted {u : State} {c : InitCmd} {e : Err} (init : s.op = .init c) (echo : e.isEcho = false) (rsp : u.rsp = s.rsp)
      (stage : u.state = s.state) : Proceeds s (abortInit e u)
  /-- INIT ends in Ready with the class in `capacity` -/
  | ready {u : State} {c : InitCmd} {k : CapClass} (init : s.op = .init c) (rsp : u.rsp = s.rsp)
      (capacity : u.capacity = some k) (errCode : u.errCode = none) : Proceeds s (readyInit k u)

variable {s t : State}

/-- `Proceeds` looks at the response port, `busy`, the operation and the handshake alone. -/
theorem Proceeds.congr {u : State} (h : Proceeds u t) (hop : u.op = s.op) (hrsp : u.rsp = s.rsp) (hbusy : u.busy = s.busy)
    (hkeeps : u.handshake = s.handshake) : Proceeds s t := by
  have hnot : s.notInit → u.notInit := fun hn c hc => hn c (hop.symm.trans hc)
  have hnot' : u.notInit → s.notInit := fun hn c hc => hn c (hop.trans hc)
  cases h with
  | goesOn rsp busy keeps =>
    exact .goesOn (rsp.trans hrsp) (fun hb => busy (hbusy.trans hb)) fun hn => (keeps (hnot hn)).trans hkeeps
  | returned d hn rsp keeps => exact .returned d (hnot' hn) (rsp.trans hrsp) (keeps.trans hkeeps)
  | failed e hn rsp keeps => exact .failed e (hnot' hn) (rsp.trans hrsp) (keeps.trans hkeeps)
  | aborted init echo rsp stage =>
    exact .aborted (hop.symm.trans init) echo (rsp.trans hrsp) (stage.trans (congrArg Handshake.state hkeeps))
  | ready init rsp capacity errCode => exact .ready (hop.symm.trans init) (rsp.trans hrsp) capacity errCode

/-- INIT may go on whatever it writes. -/
theorem Proceeds.init {c : InitCmd} (hop : s.op = .init c) (h : t.rsp = s.rsp ∧ t.busy = s.busy) : Proceeds s t :=
  .goesOn h.1 (fun hb => h.2.trans hb) fun hn => absurd hop (hn c)

/-! ## The stages of INIT -/

theorem runCmd_goesOn {c : InitCmd} (h : runCmd c s = .next t) : t.rsp = s.rsp ∧ t.busy = s.busy := by
  obtain ⟨_, -, h⟩ := readClass_next h
  cases h
  exact ⟨rfl, rfl⟩

theorem startCmd_goesOn {c : InitCmd} (h : startCmd c s = .next t) : t.rsp = s.rsp ∧ t.busy = s.busy := by
  unfold startCmd at h
  split at h
  · exact (runCmd_goesOn h :)
  · cases h; exact ⟨rfl, rfl⟩

theorem endStages_goesOn (s : State) : (endStages s).rsp = s.rsp ∧ (endStages s).busy = s.busy := by
  unfold endStages
  split <;> exact ⟨rfl, rfl⟩

theorem enterCapacityProbe_goesOn (h : enterCapacityProbe s = .next t) : t.rsp = s.rsp ∧ t.busy = s.busy := by
  obtain ⟨v, -, h⟩ := readClass_next h
  cases v
  case v1 => cases h; exact endStages_goesOn { s with state := .capacityProbe, capacity := some .standard }
  case v2 => exact (startCmd_goesOn h :)

theorem initRaise_proceeds {c : InitCmd} {e : Err} (hop : s.op = .init c) (he : e.isEcho = false) :
    Proceeds s (initRaise e s) := by
  unfold initRaise
  split
  · exact .init hop ⟨rfl, rfl⟩
  · exact .aborted hop he rfl rfl

theorem versionAttempt_proceeds {c : InitCmd} (h : versionAttempt s = .next t) (hop : s.op = .init c) : Proceeds s t := by
  unfold versionAttempt at h
  split at h
  · cases h; exact initRaise_proceeds hop rfl
  · exact .init hop (startCmd_goesOn h :)

theorem opCondIteration_proceeds {c : InitCmd} (h : opCondIteration s = .next t) (hop : s.op = .init c) : Proceeds s t := by
  unfold opCondIteration at h
  split at h
  · cases h; exact initRaise_proceeds hop rfl
  · exact .init hop (startCmd_goesOn h :)

/-- VersionProbe has one attempt at least, so its entry does not abort. -/
theorem enterVersionProbe_proceeds {c : InitCmd} (h : enterVersionProbe s = .next t) (hop : s.op = .init c)
    (hp : s.params.wf = true) : Proceeds s t := by
  have bounds := wf_bounds hp
  unfold enterVersionProbe versionAttempt at h
  rw [if_neg (by dsimp only; omega)] at h
  exact .init hop (startCmd_goesOn h :)

/-- OpCondWait has one iteration at least, so its entry does not abort. -/
theorem enterOpCondWait_proceeds {c : InitCmd} (h : enterOpCondWait s = .next t) (hop : s.op = .init c)
    (hp : s.params.wf = true) : Proceeds s t := by
  have bounds := wf_bounds hp
  unfold enterOpCondWait opCondIteration at h
  rw [if_neg (by dsimp only; omega)] at h
  exact .init hop (startCmd_goesOn h :)

theorem judgeEcho_proceeds {c : InitCmd} (h : judgeEcho s = .next t) (hop : s.op = .init c) : Proceeds s t := by
  unfold judgeEcho at h
  split at h
  · exact .init hop (startCmd_goesOn h :)
  · exact versionAttempt_proceeds h hop

theorem judgeIdle_proceeds {c : InitCmd} (h : judgeIdle s = .next t) (hop : s.op = .init c) : Proceeds s t := by
  unfold judgeIdle at h
  split at h
  · cases h; exact .init hop ⟨rfl, rfl⟩
  · exact .init hop (enterCapacityProbe_goesOn h :)

theorem stageOk_proceeds {c d : InitCmd} (h : stageOk d s = .next t) (hop : s.op = .init c) (hp : s.params.wf = true) :
    Proceeds s t := by
  cases d
  case goIdle => exact enterVersionProbe_proceeds h hop hp
  case sendIfCond => exact judgeEcho_proceeds h hop
  case crcOnOff => exact enterOpCondWait_proceeds h hop hp
  case appCmd => exact .init hop (startCmd_goesOn h :)
  case sdSendOpCond => exact judgeIdle_proceeds h hop
  case readOcr => cases h; exact .init hop (endStages_goesOn _ :)

theorem stageErr_proceeds {c d : InitCmd} {e : Err} (h : stageErr d e s = .next t) (hop : s.op = .init c)
    (he : e.isEcho = false) : Proceeds s t := by
  unfold stageErr at h
  split at h
  · exact .init hop (startCmd_goesOn h :)
  · cases h; exact initRaise_proceeds hop he

/-! ## The parts of `wait_ready` and of EXEC_CMD -/

theorem raise_proceeds {e : Err} (h : raise e s = .next t) (he : e.isEcho = false) : Proceeds s t := by
  cases hop : s.op with
  | none | waitReady | execCmd =>
    simp only [raise, hop] at h
    cases h
    exact .failed e (by simp [State.notInit, hop]) rfl rfl
  | withCsLow =>
    simp only [raise, hop] at h
    cases h
    exact .goesOn rfl id fun _ => rfl
  | init =>
    simp only [raise, hop] at h
    split at h
    · exact stageErr_proceeds h hop he
    · cases h; exact .init hop ⟨rfl, rfl⟩

theorem nextElem_proceeds (body : List BodyElem) (done : List BodyResult) (s : State) :
    Proceeds s (nextElem body done s) := by
  unfold nextElem
  split <;> exact .goesOn rfl id fun _ => rfl

/-- A plain WAIT_READY is no part of INIT, whose ready-waits are those of its commands. -/
theorem readyOk_proceeds (hcmd : s.cmd = none → s.notInit) : Proceeds s (readyOk s) := by
  unfold readyOk plainReadyOk
  split
  · next hc =>
    split
    · exact (nextElem_proceeds _ _ _).congr rfl rfl rfl rfl
    · exact .returned _ (hcmd hc) rfl rfl
  · exact .goesOn rfl id fun _ => rfl

theorem cmdOk_proceeds {r : CmdResult} (h : cmdOk r s = .next t) (hp : s.params.wf = true) : Proceeds s t := by
  cases hop : s.op with
  | none | waitReady | execCmd =>
    simp only [cmdOk, hop] at h
    cases h
    exact .returned _ (by simp [State.notInit, hop]) rfl rfl
  | withCsLow =>
    simp only [cmdOk, hop] at h
    cases h
    exact nextElem_proceeds _ _ s
  | init =>
    simp only [cmdOk, hop] at h
    split at h
    · exact stageOk_proceeds h hop hp
    · cases h; exact .init hop ⟨rfl, rfl⟩

theorem pollAttempt_proceeds (h : pollAttempt s = .next t) : Proceeds s t := by
  unfold pollAttempt at h
  split at h
  · exact raise_proceeds h rfl
  · cases h; exact .goesOn rfl id fun _ => rfl

theorem readyByte_proceeds {b : Byte} (h : readyByte b s = .next t) (hcmd : s.cmd = none → s.notInit) : Proceeds s t := by
  unfold readyByte at h
  split at h
  · cases h; exact readyOk_proceeds hcmd
  · split at h
    · exact raise_proceeds h rfl
    · cases h; exact .goesOn rfl id fun _ => rfl

theorem pollByte_proceeds {b : Byte} (h : pollByte b s = .next t) : Proceeds s t := by
  unfold pollByte at h
  split at h
  · exact pollAttempt_proceeds h
  · cases h
    unfold statusByte
    dsimp only
    split <;> exact .goesOn rfl id fun _ => rfl

theorem extraByte_proceeds (k : Fin 4) (b : Byte) (s : State) : Proceeds s (extraByte k b s) := by
  unfold extraByte
  dsimp only
  split <;> exact .goesOn rfl id fun _ => rfl

theorem receive_proceeds {status : Byte} {extra : Option Quad} (h : receive status extra s = .next t)
    (hp : s.params.wf = true) : Proceeds s t := by
  unfold receive at h
  dsimp only at h
  split at h
  · exact (raise_proceeds h rfl).congr rfl rfl rfl rfl
  · exact (cmdOk_proceeds h hp).congr rfl rfl rfl rfl

theorem respond_proceeds {status : Byte} {echo : Option Quad} (h : respond status echo s = .next t)
    (hp : s.params.wf = true) : Proceeds s t := by
  unfold respond at h
  split at h
  · exact pollAttempt_proceeds h
  · exact receive_proceeds h hp

/-! ## Scopes, PowerUp and the Ready actions -/

theorem csLowAnswered_proceeds {fault : Bool} (h : csLowAnswered fault s = .next t) : Proceeds s t := by
  unfold csLowAnswered at h
  dsimp only at h
  split at h
  · split at h
    · next hop =>
      split at h
      · cases h; exact Proceeds.congr (initRaise_proceeds (by exact hop) rfl) rfl rfl rfl rfl
      · exact (stageErr_proceeds h hop rfl).congr rfl rfl rfl rfl
    · next hn => cases h; exact .failed _ hn rfl rfl
  · split at h
    · cases h; exact (nextElem_proceeds _ _ _).congr rfl rfl rfl rfl
    · next hop =>
      split at h
      · exact .init hop (startCmd_goesOn h :)
      · exact .init hop (runCmd_goesOn h :)
    · cases h; exact .goesOn rfl id fun _ => rfl

theorem csHighAnswered_proceeds {inFlight : Option Err} {fault : Bool} (h : csHighAnswered inFlight fault s = .next t)
    (hp : s.params.wf = true)
    (he : ∀ e, scopeError inFlight fault = some e → ∀ c, s.op = .init c → e.isEcho = false) : Proceeds s t := by
  unfold csHighAnswered at h
  dsimp only at h
  split at h
  · next hop _ => cases h; exact .returned _ (by simp [State.notInit, hop]) rfl rfl
  · next hop _ =>
    split at h
    · cases h; exact .init hop ⟨rfl, rfl⟩
    · exact (stageOk_proceeds h hop hp).congr rfl rfl rfl rfl
  · next hop hse =>
    split at h
    · cases h; exact .aborted hop (he _ hse _ hop) rfl rfl
    · exact (stageErr_proceeds h hop (he _ hse _ hop)).congr rfl rfl rfl rfl
  · next hn => cases h; exact .failed _ hn rfl rfl
  · next hn => cases h; exact .returned _ hn rfl rfl

theorem powerUpCsAnswered_proceeds {c : InitCmd} {fault : Bool} (hop : s.op = .init c) :
    Proceeds s (powerUpCsAnswered fault s) := by
  unfold powerUpCsAnswered
  dsimp only
  split
  · exact Proceeds.congr (initRaise_proceeds (by exact hop) rfl) rfl rfl rfl rfl
  · exact .init hop ⟨rfl, rfl⟩

theorem powerUpWritten_proceeds {c : InitCmd} {fault : Bool} (h : powerUpWritten fault s = .next t)
    (hop : s.op = .init c) : Proceeds s t := by
  unfold powerUpWritten at h
  split at h
  · cases h; exact initRaise_proceeds hop rfl
  · split at h
    · cases h; exact .init hop ⟨rfl, rfl⟩
    · exact .init hop (startCmd_goesOn h :)

theorem finishInit_proceeds {c : InitCmd} (hop : s.op = .init c) (he : s.errCode = none) (h : finishInit s = .next t) :
    Proceeds s t := by
  obtain ⟨k, hk, h⟩ := readClass_next h
  cases h
  split
  · exact .ready hop rfl hk he
  · exact .ready hop rfl hk he

/-! ## The answer to a call, under the invariant -/

/-- The commands of INIT have operands, so a ready-wait with none is not INIT's. -/
theorem Running.notInit_of_no_cmd (hr : Running s) (hm : s.micro.isCommand = true) (hc : s.cmd = none) : s.notInit := by
  intro c hop
  have hcmd := running_ctx hr (running_cp hr hm)
  simp only [InCommand, hop] at hcmd
  obtain ⟨-, -, -, hsome, -⟩ := hcmd
  rw [hc] at hsome
  cases hsome

/-- No echo error is in flight when a scope of INIT is left, and its own fault is none. -/
theorem Running.scopeError_not_echo {inFlight : Option Err} {c : InitCmd} (hr : Running s) (hop : s.op = .init c)
    (hm : s.micro = .csHigh inFlight) (fault : Bool) (e : Err) (he : scopeError inFlight fault = some e) :
    e.isEcho = false := by
  simp only [Running, hop, InitPoint, hm] at hr
  obtain ⟨⟨-, hflight, -⟩, -⟩ := hr
  cases inFlight with
  | some e' => exact hflight e he
  | none => cases fault <;> cases he; rfl

/-- What the answer to the outstanding call leads to. -/
theorem resume_proceeds {a : Answer} {call : Call} (hi : CoreInv s) (hb : s.busy = true) (hc : pendingCall s = some call)
    (h : resume a s = .next t) : Proceeds s t := by
  have hr := hi.running hb
  have hinit (hm : s.micro.isCommand = false) (hlow : s.micro ≠ .csLow) (hhigh : ∀ e, s.micro ≠ .csHigh e) :
      ∃ c, s.op = .init c := (init_of_micro hr hm hlow hhigh).imp fun _ h => h.1
  simp only [resume, hc, logEvent_micro] at h
  cases hm : s.micro <;> simp only [hm] at h
  case readyXfer =>
    split at h
    · exact (raise_proceeds h rfl).congr rfl rfl rfl rfl
    · have hcmd : s.cmd = none → s.notInit := hr.notInit_of_no_cmd (by rw [hm]; rfl)
      exact (readyByte_proceeds h hcmd).congr rfl rfl rfl rfl
  case readyDelay => cases h; exact .goesOn rfl id fun _ => rfl
  case frameWrite =>
    split at h
    · exact (raise_proceeds h rfl).congr rfl rfl rfl rfl
    · exact (pollAttempt_proceeds h).congr rfl rfl rfl rfl
  case pollXfer =>
    split at h
    · exact (raise_proceeds h rfl).congr rfl rfl rfl rfl
    · exact (pollByte_proceeds h).congr rfl rfl rfl rfl
  case extraXfer =>
    split at h
    · exact (raise_proceeds h rfl).congr rfl rfl rfl rfl
    · cases h; exact (extraByte_proceeds _ _ _).congr rfl rfl rfl rfl
  case csLow => exact (csLowAnswered_proceeds h).congr rfl rfl rfl rfl
  case csHigh =>
    have hecho := fun e he c hop => hr.scopeError_not_echo (c := c) hop hm a.fault e he
    exact (csHighAnswered_proceeds h hi.params hecho).congr rfl rfl rfl rfl
  case powerUpDelay => cases h; exact .goesOn rfl id fun _ => rfl
  case powerUpCsHigh =>
    obtain ⟨c, hop⟩ := hinit (by rw [hm]; rfl) (by simp [hm]) (by simp [hm])
    cases h
    exact Proceeds.congr (powerUpCsAnswered_proceeds (by exact hop)) rfl rfl rfl rfl
  case powerUpWrite =>
    obtain ⟨c, hop⟩ := hinit (by rw [hm]; rfl) (by simp [hm]) (by simp [hm])
    exact (powerUpWritten_proceeds h hop).congr rfl rfl rfl rfl
  case opCondDelay =>
    obtain ⟨c, hop⟩ := hinit (by rw [hm]; rfl) (by simp [hm]) (by simp [hm])
    exact (opCondIteration_proceeds h hop).congr rfl rfl rfl rfl
  all_goals simp [pendingCall, hm] at hc

/-! ## The step -/

/-- A response row is what EXEC_CMD does with the status byte and, where it has one, an echo. -/
theorem exec_responseOf (sh : Shape) (status : Byte) (extra : Quad) :
    ∃ echo, ∀ s, exec (responseOf sh status extra) s = respond status echo s := by
  unfold responseOf
  split
  · exact ⟨none, fun _ => rfl⟩
  · cases sh
    case r1 => exact ⟨none, fun _ => rfl⟩
    case r3 | r7 => exact ⟨some _, fun _ => rfl⟩

theorem step_busy_proceeds (hi : CoreInv s) (hb : s.busy = true) (h : step s = .next t) : Proceeds s t := by
  rcases step_busy_cases hb with hs | ⟨c, -, -, hs⟩ | ⟨hm, hs⟩ | ⟨hm, hs⟩ | ⟨call, a, rest, hc, -, hs⟩ <;> rw [hs] at h
  · cases h; exact .goesOn rfl id fun _ => rfl
  · cases h; exact .goesOn rfl (fun _ => rfl) fun _ => rfl
  · obtain ⟨echo, he⟩ := exec_responseOf s.shape s.status s.extra
    rw [he] at h
    exact respond_proceeds h hi.params
  · obtain ⟨c, hop, -, -, herr⟩ := init_of_micro (hi.running hb) (by rw [hm]; rfl) (by simp [hm]) (by simp [hm])
    exact finishInit_proceeds hop herr h
  · exact (resume_proceeds (hi.with_answers rest) hb hc h).congr rfl rfl rfl rfl

/-- A request other than INIT is answered at once, or it starts an operation. -/
theorem exec_proceeds {i : Instr} (hn : s.notInit) (hreq : i.format = .request) (hi : ∀ speedup, i ≠ .init speedup)
    (h : exec i s = .next t) : Proceeds s t := by
  cases i with
  | init speedup => exact absurd rfl (hi speedup)
  | crc7 => cases h; exact .returned _ hn rfl rfl
  | waitReady => cases h; exact .goesOn rfl (fun _ => rfl) fun _ => rfl
  | encode =>
    simp only [exec, execEncode] at h
    split at h <;> cases h
    exact .returned _ hn rfl rfl
  | decodeCmd =>
    simp only [exec, execDecodeCmd] at h
    split at h <;> cases h
    exact .returned _ hn rfl rfl
  | statusCheckError =>
    simp only [exec, execStatusCheckError] at h
    split at h
    · split at h
      · cases h; exact .failed _ hn rfl rfl
      · cases h; exact .returned _ hn rfl rfl
    · cases h
  | statusIsTruncated =>
    simp only [exec, execStatusIsTruncated] at h
    split at h <;> cases h
    exact .returned _ hn rfl rfl
  | checkIfEcho =>
    simp only [exec, execCheckIfEcho] at h
    split at h
    · cases h
    · split at h
      · cases h; exact .failed _ hn rfl rfl
      · cases h; exact .returned _ hn rfl rfl
  | capacityFromOcr =>
    simp only [exec, execCapacityFromOcr] at h
    split at h <;> cases h
    exact .returned _ hn rfl rfl
  | execCmd =>
    simp only [exec, execExecCmd] at h
    split at h <;> cases h
    exact .goesOn rfl (fun _ => rfl) fun _ => rfl
  | withCsLow =>
    simp only [exec, execWithCsLow] at h
    split at h <;> cases h
    exact .goesOn rfl (fun _ => rfl) fun _ => rfl
  | cmdN | goIdleState | sendIfCond | crcOnOff | appCmd | sdSendOpCond | readOcr | respR1 | respR3 | respR7 => cases hreq

theorem AtRest.notInit (h : AtRest s) : s.notInit := by
  obtain ⟨-, hop, -⟩ := h
  simp [State.notInit, hop]

/-- A step of a CORE at rest is one of an operation other than INIT, unless it takes a reset or an INIT request. -/
theorem step_rest_proceeds (hi : CoreInv s) (hb : s.busy = false) (h : step s = .next t) :
    Proceeds s t ∨ (s.host.head? = some .reset ∧ t.rsp = s.rsp)
      ∨ ∃ r speedup, s.host.head? = some (.request r) ∧ decodeRequest r = .ok (.init speedup) ∧ t.rsp = s.rsp := by
  rcases step_rest_cases hb with hs | ⟨rest, hh, hs⟩ | ⟨r, rest, hh, hs | ⟨i, hd, hs⟩⟩ <;> rw [hs] at h
  · cases h; exact .inl (.goesOn rfl id fun _ => rfl)
  · cases h; exact .inr (.inl ⟨by rw [hh]; rfl, rfl⟩)
  · cases h
  · by_cases hinit : ∃ speedup, i = .init speedup
    · obtain ⟨speedup, rfl⟩ := hinit
      cases h
      exact .inr (.inr ⟨r, speedup, by rw [hh]; rfl, hd, rfl⟩)
    · have hn : State.notInit { s with host := rest } := (hi.rest hb).notInit
      have hne : ∀ speedup, i ≠ .init speedup := fun speedup he => hinit ⟨speedup, he⟩
      exact .inl ((exec_proceeds hn (decodeRequest_format hd) hne h).congr rfl rfl rfl rfl)

/-! ## The results -/

/-- The result `r` ends the operation that runs in `s`, and `t` is the state it leaves: what a result says
(10_state.md R42, 60_exceptions.md R192, R196, R197). -/
def EndsWith (s t : State) (r : Response) : Prop :=
  t.rsp = s.rsp ++ [r] ∧ t.busy = false ∧ r.err = t.errCode ∧ (r.ok = true ↔ r.err = none)
    ∧ (r.ok = false → r.data = .none)
    ∧ (r.release = true ↔ ∃ c, s.op = .init c)
    ∧ (r.release = true → t.owned = false ∧ r.err ≠ some .unexpectedVoltage ∧ r.err ≠ some .checkPatternMismatch
        ∧ (r.ok = true → t.state = .ready ∧ ∃ class_, t.capacity = some class_ ∧ r.data = .capacity class_)
        ∧ (r.ok = false → t.state = .unusable ∧ t.failState = s.state))

theorem returnOk_endsWith {u : State} (d : RspData) (hn : s.notInit) (hrsp : u.rsp = s.rsp) :
    EndsWith s (returnOk d u) ⟨true, d, none, false⟩ :=
  ⟨by rw [returnOk_rsp, hrsp], rfl, rfl, by simp, by simp, by simpa [State.notInit] using hn, by simp⟩

theorem failOp_endsWith {u : State} (e : Err) (hn : s.notInit) (hrsp : u.rsp = s.rsp) :
    EndsWith s (failOp e u) ⟨false, .none, some e, false⟩ :=
  ⟨by rw [failOp_rsp, hrsp], rfl, rfl, by simp, by simp, by simpa [State.notInit] using hn, by simp⟩

theorem abortInit_endsWith {u : State} {c : InitCmd} {e : Err} (hop : s.op = .init c) (he : e.isEcho = false)
    (hrsp : u.rsp = s.rsp) (hstage : u.state = s.state) : EndsWith s (abortInit e u) ⟨false, .none, some e, true⟩ := by
  have hvoltage : some e ≠ some .unexpectedVoltage := by rintro ⟨⟩; cases he
  have hpattern : some e ≠ some .checkPatternMismatch := by rintro ⟨⟩; cases he
  exact ⟨by rw [abortInit_rsp, hrsp], rfl, rfl, by simp, by simp, by simp [hop],
    fun _ => ⟨rfl, hvoltage, hpattern, by simp, fun _ => ⟨rfl, hstage⟩⟩⟩

theorem readyInit_endsWith {u : State} {c : InitCmd} {k : CapClass} (hop : s.op = .init c) (hrsp : u.rsp = s.rsp)
    (hcap : u.capacity = some k) (herr : u.errCode = none) :
    EndsWith s (readyInit k u) ⟨true, .capacity k, none, true⟩ :=
  ⟨by rw [readyInit_rsp, hrsp], rfl, herr.symm, by simp, by simp, by simp [hop],
    fun _ => ⟨rfl, by simp, by simp, fun _ => ⟨rfl, k, hcap, rfl⟩, by simp⟩⟩

theorem Proceeds.result (h : Proceeds s t) :
    (t.rsp = s.rsp ∧ (s.busy = true → t.busy = true)) ∨ ∃ r, EndsWith s t r := by
  cases h with
  | goesOn rsp busy _ => exact .inl ⟨rsp, busy⟩
  | returned d hn rsp _ => exact .inr ⟨_, returnOk_endsWith d hn rsp⟩
  | failed e hn rsp _ => exact .inr ⟨_, failOp_endsWith e hn rsp⟩
  | aborted hop echo rsp stage => exact .inr ⟨_, abortInit_endsWith hop echo rsp stage⟩
  | ready hop rsp capacity errCode => exact .inr ⟨_, readyInit_endsWith hop rsp capacity errCode⟩

/-- Another operation than INIT, in whichever way it proceeds, leaves the handshake. -/
theorem Proceeds.keepsHandshake (h : Proceeds s t) (hn : s.notInit) : t.handshake = s.handshake := by
  cases h with
  | goesOn _ _ keeps => exact keeps hn
  | returned _ _ _ keeps => exact keeps
  | failed _ _ _ keeps => exact keeps
  | aborted hop => exact absurd hop (hn _)
  | ready hop => exact absurd hop (hn _)

/-- Settles O50: busy, the CORE proceeds with its operation (`Proceeds.result`); at rest, reset and INIT's entry are the two
steps that are no step of an operation already accepted, and they give no result. -/
theorem oneResultPerOperation : Obligations.OneResultPerOperation := by
  intro s t hi h
  cases hb : s.busy
  case true =>
    have hres := (step_busy_proceeds hi hb h).result
    rwa [hb] at hres
  case false =>
    have idle : t.rsp = s.rsp → t.rsp = s.rsp ∧ (false = true → t.busy = true) := fun hrsp => ⟨hrsp, by simp⟩
    rcases step_rest_proceeds hi hb h with hp | ⟨-, hrsp⟩ | ⟨_, _, -, -, hrsp⟩
    · exact hp.result.imp (fun hon => idle hon.1) id
    · exact .inl (idle hrsp)
    · exact .inl (idle hrsp)

theorem withLength_ok {n : Nat} {bytes : List Byte} {i j : Instr} (h : withLength n bytes i = .ok j) : j = i := by
  unfold withLength at h
  split at h <;> cases h
  rfl

theorem else_of_ite_eq {α : Type} {c : Prop} [Decidable c] {a b x : α} (h : (if c then a else b) = x) (ha : a ≠ x) :
    b = x := by
  split at h
  · exact absurd h ha
  · exact h

/-- Operation code 0xB alone is INIT's (30_encoding.md R70). -/
theorem decodeRequest_init {r : Request} {speedup : Bool} (h : decodeRequest r = .ok (.init speedup)) : r.op = 0xB := by
  unfold decodeRequest at h
  iterate 2 replace h := else_of_ite_eq h nofun
  iterate 5 replace h := else_of_ite_eq h fun hl => nomatch withLength_ok hl
  replace h := else_of_ite_eq h nofun
  replace h := else_of_ite_eq h (by split <;> nofun)
  replace h := else_of_ite_eq h (by split <;> nofun)
  by_contra hop
  rw [if_neg hop] at h
  cases h

/-- Settles O51: no step but reset, INIT's entry and INIT's own writes what INIT alone writes. -/
theorem onlyInitWritesTheHandshakeRegisters : Obligations.OnlyInitWritesTheHandshakeRegisters := by
  intro s t hi h hn hhost
  have hkeeps : t.handshake = s.handshake := by
    cases hb : s.busy
    case true => exact (step_busy_proceeds hi hb h).keepsHandshake hn
    case false =>
      obtain ⟨hreset, hreq⟩ := hhost hb
      rcases step_rest_proceeds hi hb h with hp | ⟨hh, -⟩ | ⟨r, _, hh, hd, -⟩
      · exact hp.keepsHandshake hn
      · exact absurd hh hreset
      · exact absurd (decodeRequest_init hd) (hreq r hh)
  simpa [State.handshake] using hkeeps

end Sys2Proof.Machine

/-! PROOFS. That every instruction has a meaning: nothing a step runs answers with a refusal. -/

namespace Sys2Proof.Machine

/-- The outcome is no refusal. -/
def Modelled (o : Out) : Prop := ∀ r, o ≠ .refused r

@[simp] theorem modelled_next (t : State) : Modelled (.next t) := nofun

@[simp] theorem modelled_fault (f : Fault) : Modelled (.fault f) := nofun

theorem readClass_modelled {α : Type} {r : Option α} {use : α → Out} (h : ∀ x, Modelled (use x)) :
    Modelled (readClass r use) := by
  cases r
  case none => exact modelled_fault _
  case some x => exact h x

/-! ## The stages of INIT -/

@[simp] theorem runCmd_modelled (c : InitCmd) (s : State) : Modelled (runCmd c s) :=
  readClass_modelled fun _ => modelled_next _

@[simp] theorem startCmd_modelled (c : InitCmd) (s : State) : Modelled (startCmd c s) := by
  unfold startCmd
  split <;> simp

@[simp] theorem versionAttempt_modelled (s : State) : Modelled (versionAttempt s) := by
  unfold versionAttempt
  split <;> simp

@[simp] theorem opCondIteration_modelled (s : State) : Modelled (opCondIteration s) := by
  unfold opCondIteration
  split <;> simp

@[simp] theorem enterCapacityProbe_modelled (s : State) : Modelled (enterCapacityProbe s) :=
  readClass_modelled fun v => by cases v <;> simp

@[simp] theorem judgeEcho_modelled (s : State) : Modelled (judgeEcho s) := by
  unfold judgeEcho enterCrcEnable
  split <;> simp

@[simp] theorem judgeIdle_modelled (s : State) : Modelled (judgeIdle s) := by
  unfold judgeIdle
  split <;> simp

@[simp] theorem stageOk_modelled (c : InitCmd) (s : State) : Modelled (stageOk c s) := by
  cases c <;> simp [stageOk, enterVersionProbe, enterOpCondWait, judgeOcr]

@[simp] theorem stageErr_modelled (c : InitCmd) (e : Err) (s : State) : Modelled (stageErr c e s) := by
  unfold stageErr enterCrcEnable
  split <;> simp

/-! ## The parts of `wait_ready`, of EXEC_CMD and of a scope -/

@[simp] theorem raise_modelled (e : Err) (s : State) : Modelled (raise e s) := by
  unfold raise
  split
  case h_5 => split <;> simp
  all_goals simp

@[simp] theorem cmdOk_modelled (r : CmdResult) (s : State) : Modelled (cmdOk r s) := by
  unfold cmdOk
  split
  case h_5 => split <;> simp
  all_goals simp

@[simp] theorem pollAttempt_modelled (s : State) : Modelled (pollAttempt s) := by
  unfold pollAttempt
  split <;> simp

@[simp] theorem readyByte_modelled (b : Byte) (s : State) : Modelled (readyByte b s) := by
  unfold readyByte
  split
  · simp
  · split <;> simp

@[simp] theorem pollByte_modelled (b : Byte) (s : State) : Modelled (pollByte b s) := by
  unfold pollByte
  split <;> simp

@[simp] theorem receive_modelled (status : Byte) (extra : Option Quad) (s : State) : Modelled (receive status extra s) := by
  unfold receive
  dsimp only
  split <;> simp

@[simp] theorem respond_modelled (status : Byte) (echo : Option Quad) (s : State) : Modelled (respond status echo s) := by
  unfold respond
  split <;> simp

@[simp] theorem csLowAnswered_modelled (fault : Bool) (s : State) : Modelled (csLowAnswered fault s) := by
  unfold csLowAnswered enterIdle
  dsimp only
  split
  · split
    · split <;> simp
    · simp
  · split
    · simp
    · split <;> simp
    · simp

@[simp] theorem csHighAnswered_modelled (inFlight : Option Err) (fault : Bool) (s : State) :
    Modelled (csHighAnswered inFlight fault s) := by
  unfold csHighAnswered
  dsimp only
  split
  case h_2 | h_3 => split <;> simp
  all_goals simp

@[simp] theorem powerUpWritten_modelled (fault : Bool) (s : State) : Modelled (powerUpWritten fault s) := by
  unfold powerUpWritten enterIdle
  split
  · simp
  · split <;> simp

@[simp] theorem finishInit_modelled (s : State) : Modelled (finishInit s) :=
  readClass_modelled fun _ => modelled_next _

/-! ## The step -/

theorem resume_modelled (a : Answer) (s : State) : Modelled (resume a s) := by
  unfold resume
  split
  · simp
  · dsimp only
    split
    case h_1 | h_3 | h_4 | h_5 => split <;> simp [startPoll]
    all_goals simp

theorem exec_modelled (i : Instr) (s : State) : Modelled (exec i s) := by
  cases i with
  | crc7 | waitReady | init | cmdN | goIdleState | sendIfCond | crcOnOff | appCmd | sdSendOpCond | readOcr =>
    exact modelled_next _
  | respR1 | respR3 | respR7 => exact respond_modelled _ _ _
  | encode => simp only [exec, execEncode]; split <;> simp
  | decodeCmd => simp only [exec, execDecodeCmd]; split <;> simp
  | statusCheckError =>
    simp only [exec, execStatusCheckError]
    split
    · split <;> simp
    · simp
  | statusIsTruncated => simp only [exec, execStatusIsTruncated]; split <;> simp
  | checkIfEcho =>
    simp only [exec, execCheckIfEcho]
    split
    · simp
    · split <;> simp
  | capacityFromOcr => simp only [exec, execCapacityFromOcr]; split <;> simp
  | execCmd => simp only [exec, execExecCmd]; split <;> simp
  | withCsLow => simp only [exec, execWithCsLow]; split <;> simp

theorem step_modelled (s : State) : Modelled (step s) := by
  cases hb : s.busy
  case false =>
    rcases step_rest_cases hb with hs | ⟨rest, -, hs⟩ | ⟨r, rest, -, hs | ⟨i, -, hs⟩⟩ <;> rw [hs]
    case inr.inr.inr => exact exec_modelled i _
    all_goals simp
  case true =>
    rcases step_busy_cases hb with hs | ⟨c, -, -, hs⟩ | ⟨-, hs⟩ | ⟨-, hs⟩ | ⟨call, a, rest, -, -, hs⟩ <;> rw [hs]
    case inr.inr.inl => exact exec_modelled _ s
    case inr.inr.inr.inr => exact resume_modelled a _
    all_goals simp

end Sys2Proof.Machine

/-! PROOFS. What the registers 10_state.md R36 marks unset hold at rest shows nowhere (R37). `Alike` relates two runs that differ
in them alone: an INIT request writes all eight, and from then on the two states are one; another operation reads of them only
what it has written since it began (`Live`), and the two steps answer alike at each of its points. -/

namespace Sys2Proof.Machine

variable {s t u : State}

/-! ## A state with other values in the unset registers -/

@[simp] theorem withUnset_params : (s.withUnset u).params = s.params := rfl
@[simp] theorem withUnset_busy : (s.withUnset u).busy = s.busy := rfl
@[simp] theorem withUnset_status : (s.withUnset u).status = u.status := rfl
@[simp] theorem withUnset_extra : (s.withUnset u).extra = u.extra := rfl
@[simp] theorem withUnset_shape : (s.withUnset u).shape = u.shape := rfl
@[simp] theorem withUnset_readyCnt : (s.withUnset u).readyCnt = s.readyCnt := rfl
@[simp] theorem withUnset_respCnt : (s.withUnset u).respCnt = s.respCnt := rfl
@[simp] theorem withUnset_micro : (s.withUnset u).micro = s.micro := rfl
@[simp] theorem withUnset_op : (s.withUnset u).op = s.op := rfl
@[simp] theorem withUnset_cmd : (s.withUnset u).cmd = s.cmd := rfl
@[simp] theorem withUnset_host : (s.withUnset u).host = s.host := rfl
@[simp] theorem withUnset_answers : (s.withUnset u).answers = s.answers := rfl

/-- Where the running operation, which is not INIT, still reads one of these registers, `u` holds what `s` does: `shape` from the
entry of EXEC_CMD to its end (43_bus_transaction.md R142, R144), `frame` while it is written, `status` and the bytes of `extra`
that have come until the response is validated (R145). At the two calls of a scope the operation is WITH_CS_LOW, and none but
INIT comes to the last five points. -/
def Live (s u : State) : Prop :=
  match s.micro with
  | .readyXfer | .readyDelay => s.cmd.isSome = true → u.shape = s.shape
  | .sendFrame | .pollXfer => u.shape = s.shape
  | .frameWrite => u.shape = s.shape ∧ u.frame = s.frame
  | .extraXfer k => u.shape = s.shape ∧ u.status = s.status ∧ u.extra.toList.take k = s.extra.toList.take k
  | .respond => u.shape = s.shape ∧ u.status = s.status ∧ (readsExtra s.shape s.status = true → u.extra = s.extra)
  | .csLow | .csHigh _ => ∃ rest done, s.op = .withCsLow rest done
  | .idle => True
  | .powerUpDelay | .powerUpCsHigh | .powerUpWrite | .opCondDelay | .finish => False

/-- The same state, or one that differs in the unset registers alone, and in none of them that is still read. -/
def Alike (s t : State) : Prop :=
  t = s ∨ ∃ u, t = s.withUnset u ∧ (s.busy = true → s.notInit ∧ Live s u)

/-- Two steps that stop alike or go on to states that are `Alike`. -/
def AlikeOut (o o' : Out) : Prop :=
  match o, o' with
  | .next t, .next t' => Alike t t'
  | .fault f, .fault f' => f = f'
  | _, _ => False

theorem alike_atRest (hb : s.busy = false) : Alike s (s.withUnset u) :=
  .inr ⟨u, rfl, fun h => by rw [hb] at h; cases h⟩

theorem alike_live (hn : s.notInit) (hl : Live s u) : Alike s (s.withUnset u) := .inr ⟨u, rfl, fun _ => ⟨hn, hl⟩⟩

theorem Alike.withUnset (h : Alike s t) : t = s.withUnset t := by
  rcases h with rfl | ⟨u, rfl, -⟩ <;> rfl

theorem alikeOut_next {s' : State} (h : Alike s s') : AlikeOut (.next s) (.next s') := h

theorem alikeOut_refl {o : Out} (h : Modelled o) : AlikeOut o o := by
  cases o with
  | next t => exact .inl rfl
  | fault f => rfl
  | refused r => exact absurd rfl (h r)

/-! ## The parts of an operation other than INIT -/

theorem raise_alike (e : Err) (hn : s.notInit) : AlikeOut (raise e s) (raise e (s.withUnset u)) := by
  cases hop : s.op with
  | none | waitReady | execCmd =>
    simp only [raise, withUnset_op, hop]
    exact alikeOut_next (alike_atRest (s := failOp e s) rfl)
  | withCsLow rest done =>
    simp only [raise, withUnset_op, hop]
    exact alikeOut_next (alike_live (u := u) nofun ⟨rest, done, rfl⟩)
  | init c => exact absurd hop (hn c)

theorem nextElem_alike (body : List BodyElem) (done : List BodyResult) :
    Alike (nextElem body done s) (nextElem body done (s.withUnset u)) := by
  cases body with
  | nil => exact alike_live (s := nextElem [] done s) (u := u) nofun ⟨[], done, rfl⟩
  | cons elem rest =>
    cases elem with
    | waitReady => exact alike_live (s := nextElem (.waitReady :: rest) done s) (u := u) nofun nofun
    | execCmd index arg shape =>
      exact alike_live (s := nextElem (.execCmd index arg shape :: rest) done s) (u := { u with shape := shape })
        nofun fun _ => rfl

theorem readyOk_alike (hn : s.notInit) (hshape : s.cmd.isSome = true → u.shape = s.shape) :
    Alike (readyOk s) (readyOk (s.withUnset u)) := by
  cases hcmd : s.cmd with
  | some c =>
    simp only [readyOk, withUnset_cmd, hcmd]
    exact alike_live hn (hshape (by rw [hcmd]; rfl))
  | none =>
    cases hop : s.op with
    | none | waitReady | execCmd =>
      simp only [readyOk, plainReadyOk, withUnset_cmd, withUnset_op, hcmd, hop]
      exact alike_atRest (s := returnOk .none { s with errCode := none }) rfl
    | withCsLow rest done =>
      simp only [readyOk, plainReadyOk, withUnset_cmd, withUnset_op, hcmd, hop]
      exact nextElem_alike (u := u) _ _
    | init c => exact absurd hop (hn c)

theorem cmdOk_alike (r : CmdResult) (hn : s.notInit) : AlikeOut (cmdOk r s) (cmdOk r (s.withUnset u)) := by
  cases hop : s.op with
  | none | waitReady | execCmd =>
    simp only [cmdOk, withUnset_op, hop]
    exact alikeOut_next (alike_atRest (s := returnOk (.cmd r) s) rfl)
  | withCsLow rest done =>
    simp only [cmdOk, withUnset_op, hop]
    exact alikeOut_next (nextElem_alike _ _)
  | init c => exact absurd hop (hn c)

theorem pollAttempt_alike (hn : s.notInit) (hshape : u.shape = s.shape) :
    AlikeOut (pollAttempt s) (pollAttempt (s.withUnset u)) := by
  by_cases hlast : s.respCnt = s.params.nResp
  · simp only [pollAttempt, withUnset_respCnt, withUnset_params, hlast, if_true]
    exact raise_alike _ hn
  · simp only [pollAttempt, withUnset_respCnt, withUnset_params, hlast, if_false]
    exact alikeOut_next (alike_live (s := { s with respCnt := s.respCnt + 1, micro := .pollXfer }) hn hshape)

theorem readyByte_alike (b : Byte) (hn : s.notInit) (hshape : s.cmd.isSome = true → u.shape = s.shape) :
    AlikeOut (readyByte b s) (readyByte b (s.withUnset u)) := by
  by_cases hb : b = sentinel
  · simp only [readyByte, hb, if_true]
    exact alikeOut_next (readyOk_alike hn hshape)
  by_cases hlast : s.readyCnt = s.params.nReady
  · simp only [readyByte, withUnset_readyCnt, withUnset_params, hb, hlast, if_true, if_false]
    exact raise_alike _ hn
  · simp only [readyByte, withUnset_readyCnt, withUnset_params, hb, hlast, if_false]
    exact alikeOut_next (alike_live (s := { s with micro := .readyDelay }) hn hshape)

theorem statusByte_alike (b : Byte) (hn : s.notInit) (hshape : u.shape = s.shape) :
    Alike (statusByte b s) (statusByte b (s.withUnset u)) := by
  have hreads : readsExtra (s.withUnset u).shape b = readsExtra s.shape b := by rw [withUnset_shape, hshape]
  unfold statusByte
  dsimp only
  rw [hreads]
  split
  · exact alike_live (u := { u with status := b }) hn ⟨hshape, rfl, rfl⟩
  · next hre => exact alike_live (u := { u with status := b }) hn ⟨hshape, rfl, fun h => absurd h hre⟩

theorem pollByte_alike (b : Byte) (hn : s.notInit) (hshape : u.shape = s.shape) :
    AlikeOut (pollByte b s) (pollByte b (s.withUnset u)) := by
  by_cases hb : b = sentinel
  · simp only [pollByte, hb, if_true]
    exact pollAttempt_alike hn hshape
  · simp only [pollByte, hb, if_false]
    exact alikeOut_next (statusByte_alike b hn hshape)

/-- Byte `k` once written and the bytes before it are the first `k + 1`. -/
theorem quad_take_set (q : Quad) (k : Fin 4) (b : Byte) :
    (q.set k b).toList.take (k + 1) = q.toList.take k ++ [b] := by
  match k with
  | 0 | 1 | 2 | 3 => rfl

theorem extraByte_alike (k : Fin 4) (b : Byte) (hn : s.notInit) (hshape : u.shape = s.shape) (hstatus : u.status = s.status)
    (hextra : u.extra.toList.take k = s.extra.toList.take k) :
    Alike (extraByte k b s) (extraByte k b (s.withUnset u)) := by
  have htake : (u.extra.set k b).toList.take (k + 1) = (s.extra.set k b).toList.take (k + 1) := by
    rw [quad_take_set, quad_take_set, hextra]
  by_cases hk : k.val + 1 < 4
  · simp only [extraByte, hk, dite_true]
    exact alike_live (s := { s with extra := s.extra.set k b, micro := .extraXfer ⟨k + 1, hk⟩ })
      (u := { u with extra := u.extra.set k b }) hn ⟨hshape, hstatus, htake⟩
  · have hlast : k.val + 1 = 4 := by omega
    rw [hlast] at htake
    simp only [extraByte, hk, dite_false]
    exact alike_live (s := { s with extra := s.extra.set k b, micro := .respond })
      (u := { u with extra := u.extra.set k b }) hn ⟨hshape, hstatus, fun _ => Quad.toList_inj.1 htake⟩

theorem receive_alike (status : Byte) (extra : Option Quad) (hn : s.notInit) :
    AlikeOut (receive status extra s) (receive status extra (s.withUnset u)) := by
  unfold receive
  dsimp only
  split
  · exact raise_alike (s := { s with status := status, extra := extra.getD s.extra })
      (u := { u with status := status, extra := extra.getD u.extra }) _ hn
  · exact cmdOk_alike (s := { s with status := status, extra := extra.getD s.extra, errCode := none })
      (u := { u with status := status, extra := extra.getD u.extra }) _ hn

theorem respond_alike (status : Byte) (echo : Option Quad) (hn : s.notInit) (hshape : u.shape = s.shape) :
    AlikeOut (respond status echo s) (respond status echo (s.withUnset u)) := by
  unfold respond
  split
  · exact pollAttempt_alike hn hshape
  · exact receive_alike _ _ hn

theorem csLowAnswered_alike {rest : List BodyElem} {done : List BodyResult} (fault : Bool)
    (hop : s.op = .withCsLow rest done) : AlikeOut (csLowAnswered fault s) (csLowAnswered fault (s.withUnset u)) := by
  cases fault <;> simp only [csLowAnswered, withUnset_op, hop, Bool.false_eq_true, if_false, if_true]
  case false => exact alikeOut_next (nextElem_alike (u := u) rest done)
  case true => exact alikeOut_next (alike_atRest (u := u) rfl)

theorem csHighAnswered_alike {rest : List BodyElem} {done : List BodyResult} (inFlight : Option Err) (fault : Bool)
    (hop : s.op = .withCsLow rest done) :
    AlikeOut (csHighAnswered inFlight fault s) (csHighAnswered inFlight fault (s.withUnset u)) := by
  cases he : scopeError inFlight fault <;> simp only [csHighAnswered, withUnset_op, hop, he]
  case none => exact alikeOut_next (alike_atRest (u := u) rfl)
  case some e => exact alikeOut_next (alike_atRest (u := u) rfl)

/-! ## The answer to a call -/

/-- The call that is out is the same: of the unset registers it names `frame` alone, while that is written. -/
theorem Live.pendingCall (hl : Live s u) : pendingCall (s.withUnset u) = pendingCall s := by
  cases hm : s.micro
  case frameWrite =>
    simp only [Live, hm] at hl
    simp only [Machine.pendingCall, withUnset_micro, hm]
    exact congrArg (fun f : Frame => some (Call.write f.toList)) hl.2
  all_goals simp only [Machine.pendingCall, withUnset_micro, withUnset_params, hm]

theorem resume_alike (a : Answer) {call : Call} (hc : pendingCall s = some call) (hn : s.notInit) (hl : Live s u) :
    AlikeOut (resume a s) (resume a (s.withUnset u)) := by
  simp only [resume, hl.pendingCall, hc, logEvent_micro, withUnset_micro]
  have hlog : logEvent (call.event a) (s.withUnset u) = (logEvent (call.event a) s).withUnset u := rfl
  rw [hlog]
  cases hm : s.micro <;> simp only [Live, hm] at hl <;> dsimp only
  case readyXfer =>
    split
    · exact raise_alike _ hn
    · exact readyByte_alike _ hn hl
  case readyDelay => exact alikeOut_next (alike_live (u := u) hn hl)
  case frameWrite =>
    split
    · exact raise_alike _ hn
    · exact pollAttempt_alike (s := { logEvent (call.event a) s with respCnt := 0 }) hn hl.1
  case pollXfer =>
    split
    · exact raise_alike _ hn
    · exact pollByte_alike _ hn hl
  case extraXfer k =>
    obtain ⟨hshape, hstatus, hextra⟩ := hl
    split
    · exact raise_alike _ hn
    · exact alikeOut_next (extraByte_alike k _ hn hshape hstatus hextra)
  case csLow =>
    obtain ⟨rest, done, hop⟩ := hl
    exact csLowAnswered_alike a.fault hop
  case csHigh inFlight =>
    obtain ⟨rest, done, hop⟩ := hl
    exact csHighAnswered_alike inFlight a.fault hop
  all_goals simp [Machine.pendingCall, hm] at hc

/-! ## The step -/

/-- A request's meaning reads none of the unset registers: a pure one ends at once, a bus request writes the registers its
operation reads, INIT writes all. -/
theorem exec_alike {i : Instr} (hreq : i.format = .request) : AlikeOut (exec i s) (exec i (s.withUnset u)) := by
  cases i with
  | init speedup => exact alikeOut_next (.inl rfl)
  | crc7 bytes => exact alikeOut_next (alike_atRest (u := { u with crc := crc7 bytes }) rfl)
  | encode index arg len =>
    simp only [exec, execEncode]
    split
    · rfl
    · exact alikeOut_next (alike_atRest (u := { u with frame := frameOf index arg, crc := frameCrc index arg }) rfl)
  | decodeCmd bytes =>
    simp only [exec, execDecodeCmd]
    split
    · rfl
    · next f _ => exact alikeOut_next (alike_atRest (u := { u with crc := crc7 f.covered }) rfl)
  | statusCheckError bytes =>
    simp only [exec, execStatusCheckError]
    split
    · next st =>
      split
      · exact alikeOut_next (alike_atRest (u := { u with status := st }) rfl)
      · exact alikeOut_next (alike_atRest (u := { u with status := st }) rfl)
    · rfl
  | statusIsTruncated bytes =>
    simp only [exec, execStatusIsTruncated]
    split
    · next st => exact alikeOut_next (alike_atRest (u := { u with status := st }) rfl)
    · rfl
  | checkIfEcho bytes pattern =>
    simp only [exec, execCheckIfEcho, withUnset_params]
    split
    · rfl
    · split
      · exact alikeOut_next (alike_atRest (u := u) rfl)
      · exact alikeOut_next (alike_atRest (u := u) rfl)
  | capacityFromOcr bytes =>
    simp only [exec, execCapacityFromOcr]
    split
    · rfl
    · exact alikeOut_next (alike_atRest (u := u) rfl)
  | waitReady =>
    exact alikeOut_next (alike_live (s := beginWaitReady { s with busy := true, op := .waitReady }) (u := u) nofun nofun)
  | execCmd index arg shape =>
    simp only [exec, execExecCmd]
    split
    · rfl
    · next sh _ =>
      exact alikeOut_next (alike_live (s := beginExecCmd index arg sh { s with busy := true, op := .execCmd })
        (u := { u with shape := sh }) nofun fun _ => rfl)
  | withCsLow body =>
    simp only [exec, execWithCsLow]
    split
    · rfl
    · next elems _ => exact alikeOut_next (alike_live (u := u) nofun ⟨elems, [], rfl⟩)
  | cmdN | goIdleState | sendIfCond | crcOnOff | appCmd | sdSendOpCond | readOcr | respR1 | respR3 | respR7 => cases hreq

theorem step_rest_alike (hb : s.busy = false) : AlikeOut (step s) (step (s.withUnset u)) := by
  have hb' : (s.withUnset u).busy = false := hb
  cases hh : s.host with
  | nil =>
    rw [step_idle hb hh, step_idle hb' hh]
    exact alikeOut_next (alike_atRest hb)
  | cons input rest =>
    cases input with
    | reset =>
      rw [step_reset hb hh, step_reset hb' hh]
      exact alikeOut_next (.inl rfl)
    | request r =>
      cases hd : decodeRequest r with
      | error e => rw [step_refuse hb hh hd, step_refuse hb' hh hd]; rfl
      | ok i =>
        rw [step_request hb hh hd, step_request hb' hh hd]
        exact exec_alike (s := { s with host := rest }) (decodeRequest_format hd)

/-- The row of a response depends on the echo only where the response has one. -/
theorem responseOf_congr {sh : Shape} {st : Byte} {q q' : Quad} (h : readsExtra sh st = true → q' = q) :
    responseOf sh st q' = responseOf sh st q := by
  unfold responseOf
  split
  · rfl
  · next htrunc =>
    cases sh
    case r1 => rfl
    case r3 | r7 => rw [h (by simpa [readsExtra, Shape.extraBytes] using htrunc)]

theorem step_busy_alike (hb : s.busy = true) (hn : s.notInit) (hl : Live s u) :
    AlikeOut (step s) (step (s.withUnset u)) := by
  have hb' : (s.withUnset u).busy = true := hb
  cases hc : pendingCall s with
  | some call =>
    rw [step_of_pendingCall hb hc, step_of_pendingCall hb' (hl.pendingCall.trans hc), withUnset_answers]
    split
    · exact alikeOut_next (alike_live hn hl)
    · next a rest _ => exact resume_alike (s := { s with answers := rest }) a hc hn hl
  | none =>
    cases hm : s.micro
    case idle =>
      simp only [step, fetch, fetchBusy, withUnset_busy, withUnset_micro, hb, hm, if_true]
      exact alikeOut_next (alike_live hn hl)
    case sendFrame =>
      simp only [Live, hm] at hl
      cases hcmd : s.cmd with
      | none =>
        simp only [step, fetch, fetchBusy, fetchFrame, withUnset_busy, withUnset_micro, withUnset_cmd, hb, hm, hcmd, if_true]
        exact alikeOut_next (alike_live hn (by simpa only [Live, hm] using hl))
      | some c =>
        rw [step_sendFrame hb hm hcmd, step_sendFrame hb' hm hcmd]
        exact alikeOut_next (alike_live (s := sendCommand c.index c.arg s)
          (u := { u with frame := frameOf c.index c.arg, crc := frameCrc c.index c.arg }) hn ⟨hl, rfl⟩)
    case respond =>
      simp only [Live, hm] at hl
      obtain ⟨hshape, hstatus, hextra⟩ := hl
      obtain ⟨echo, hexec⟩ := exec_responseOf s.shape s.status s.extra
      simp only [step, fetch, fetchBusy, fetchResponse, withUnset_busy, withUnset_micro, withUnset_shape, withUnset_status,
        withUnset_extra, hb, hm, if_true, hshape, hstatus, responseOf_congr hextra, hexec]
      exact respond_alike _ _ hn hshape
    all_goals simp [Machine.pendingCall, Live, hm] at hc hl

/-- The step lemma of the two runs. -/
theorem step_alike (h : Alike s t) : AlikeOut (step s) (step t) := by
  rcases h with rfl | ⟨u, rfl, hbusy⟩
  · exact alikeOut_refl (step_modelled _)
  · cases hb : s.busy
    case false => exact step_rest_alike hb
    case true =>
      obtain ⟨hn, hl⟩ := hbusy hb
      exact step_busy_alike hb hn hl

theorem runs_alike (n : Nat) (h : Alike s t) : AlikeOut (runs n s) (runs n t) := by
  induction n generalizing s t with
  | zero => exact h
  | succ n ih =>
    have hstep := step_alike h
    simp only [runs]
    cases hs : step s <;> cases ht : step t <;> rw [hs, ht] at hstep
    case next.next => exact ih hstep
    case fault.fault => exact hstep
    all_goals exact hstep.elim

/-- Settles O59: a CORE at rest is `Alike` to what it is with any other values in the eight registers, and so the two runs are
for ever (`runs_alike`). -/
theorem unsetRegistersAreNeverRead : Obligations.UnsetRegistersAreNeverRead := by
  intro s u n hb
  have h := runs_alike n (alike_atRest (u := u) hb)
  revert h
  generalize runs n s = o
  generalize runs n (s.withUnset u) = o'
  intro h
  cases o <;> cases o'
  case next.next => exact Alike.withUnset h
  case fault.fault => exact h
  all_goals exact False.elim h

end Sys2Proof.Machine

/-! PROOFS. The three formats of 30_encoding.md (R70 to R89): which packets decode and to which row, and that the encoder's packets
decode to the row they were made from. Each format has one lemma that says when its decoder accepts, and for frames
and responses as which row: `decode_request_iff`, `decode_command_iff`, `decode_response_iff`. The frames and responses of a running EXEC_CMD are read through the same lemmas. -/

namespace Sys2Proof

open Machine

/-! ## Requests -/

theorem withLength_ok_iff {n : Nat} {bytes : List Byte} {i : Instr} :
    (∃ j, withLength n bytes i = .ok j) ↔ bytes.length = n := by
  unfold withLength
  split <;> simp_all

theorem decodeBodyOp_ok_iff {e : SubRequest} :
    (∃ b, decodeBodyOp e = .ok b) ↔ e.op = 0x8 ∨ (e.op = 0x9 ∧ e.shape ≠ 3) := by
  unfold decodeBodyOp
  split
  · simp_all
  · split
    · rw [← shapeOfCode_isSome]
      split <;> simp_all
    · simp_all

/-- A body decodes exactly when all its elements do. -/
theorem decodeBody_ok_iff {body : List SubRequest} :
    (∃ bs, decodeBody body = .ok bs) ↔ ∀ e ∈ body, ∃ b, decodeBodyOp e = .ok b := by
  induction body with
  | nil => simp [decodeBody]
  | cons e es ih =>
    rw [List.forall_mem_cons, ← ih, decodeBody]
    cases decodeBodyOp e with
    | error _ => simp
    | ok b => cases decodeBody es <;> simp

theorem decodeBody_accepts_iff {body : List SubRequest} :
    (∃ bs, decodeBody body = .ok bs) ↔ ∀ e ∈ body, e.op = 0x8 ∨ (e.op = 0x9 ∧ e.shape ≠ 3) := by
  simp only [decodeBody_ok_iff, decodeBodyOp_ok_iff]

/-- The operation codes of R70, EXEC_CMD's and WITH_CS_LOW's first, and the reserved ones of R87 last. -/
theorem requestOp_cases (op : BitVec 4) :
    op = 0x9 ∨ op = 0xA ∨ op = 0x1 ∨ op = 0x2 ∨ op = 0x3 ∨ op = 0x4 ∨ op = 0x5 ∨ op = 0x6 ∨ op = 0x7 ∨ op = 0x8 ∨ op = 0xB
      ∨ op = 0x0 ∨ op = 0xC ∨ op = 0xD ∨ op = 0xE ∨ op = 0xF := by
  revert op; decide

/-- Which requests are let through, and so which are refused (R72, R86, R87; 43_bus_transaction.md R149). -/
theorem decode_request_iff {p : Params} {r : Request} : (∃ i, decode p (.request r) = .ok i) ↔
    (0x1 ≤ r.op ∧ r.op ≤ 0xB)
      ∧ (r.op = 0x3 → r.bytes.length = 6)
      ∧ (r.op = 0x4 ∨ r.op = 0x5 → r.bytes.length = 1)
      ∧ (r.op = 0x6 ∨ r.op = 0x7 → r.bytes.length = 4)
      ∧ (r.op = 0x9 → r.shape ≠ 3)
      ∧ (r.op = 0xA → ∀ e ∈ r.body, e.op = 0x8 ∨ (e.op = 0x9 ∧ e.shape ≠ 3)) := by
  rw [← shapeOfCode_isSome, ← decodeBody_accepts_iff]
  simp only [decode, decodeRequest]
  rcases requestOp_cases r.op with h | h | h | h | h | h | h | h | h | h | h | h | h | h | h | h
  · cases shapeOfCode r.shape <;> simp [h]
  · cases decodeBody r.body <;> simp [h]
  all_goals simp [h, withLength_ok_iff]

/-- Settles O6: the decoder of requests accepts exactly these (`decode_request_iff`). -/
theorem requestsDecodeWhenAccepted : Obligations.RequestsDecodeWhenAccepted := fun _ _ => decode_request_iff

/-- A request at the port of a CORE at rest that decodes to no instruction is refused (R72). -/
theorem step_refuse_of_not_decode {s : State} {r : Request} {rest : List HostInput} (hb : s.busy = false)
    (hh : s.host = .request r :: rest) (hd : ¬ ∃ i, decode s.params (.request r) = .ok i) :
    step s = .fault .illegalRequest := by
  cases hr : decodeRequest r with
  | error e => exact step_refuse hb hh hr
  | ok i => exact absurd ⟨i, hr⟩ hd

/-- Settles O7: no request with a reserved code decodes (`decode_request_iff`), and so it is refused. -/
theorem reservedCodesAreRefused : Obligations.ReservedCodesAreRefused := by
  intro s r rest hb hh
  constructor
  · intro hop
    refine step_refuse_of_not_decode hb hh fun hd => ?_
    obtain ⟨⟨hlow, hhigh⟩, -⟩ := decode_request_iff.mp hd
    bv_omega
  · intro hop hshape
    refine step_refuse_of_not_decode hb hh fun hd => ?_
    obtain ⟨-, -, -, -, hexec, -⟩ := decode_request_iff.mp hd
    exact hexec hop hshape

/-! ## Command frames -/

/-- The three checks of R84. -/
theorem Frame.checks_iff {f : Frame} : f.prefixOk = true ∧ f.stopOk = true ∧ f.crcOk = true ↔
    f.b0.extractLsb' 6 2 = 0b01#2 ∧ f.b5.getLsbD 0 = true ∧ f.b5.extractLsb' 1 7 = crc7 [f.b0, f.b1, f.b2, f.b3, f.b4] := by
  simp only [Frame.prefixOk, Frame.stopOk, Frame.crcOk, Frame.covered, beq_iff_eq]

/-- A frame decodes to the row of its index and argument, if it passes the checks of R84. -/
theorem decode_command_iff {p : Params} {bytes : List Byte} {i : Instr} : decode p (.command bytes) = .ok i ↔
    ∃ f : Frame, bytes = f.toList ∧ (f.prefixOk = true ∧ f.stopOk = true ∧ f.crcOk = true) ∧ commandOf p f.index f.arg = i := by
  simp only [decode, decodeFrame, ← frameOfBytes_eq_some]
  cases frameOfBytes bytes with
  | none => simp
  | some f =>
    dsimp only
    split_ifs <;> simp_all

/-- The frame ENCODE builds decodes to the row of its index and argument. -/
theorem decode_commandPacket (p : Params) (index : Index) (arg : Word) :
    decode p (commandPacket index arg) = .ok (commandOf p index arg) :=
  decode_command_iff.mpr ⟨frameOf index arg, rfl, ⟨frameOf_prefixOk _ _, frameOf_stopOk _ _, frameOf_crcOk _ _⟩,
    by rw [frameOf_index, frameOf_arg]⟩

/-- A command frame's row is encoded as the frame of its index and argument. -/
theorem encode_of_commandFields {p : Params} {i : Instr} {index : Index} {arg : Word}
    (h : commandFields p i = some (index, arg)) : encode p i = commandPacket index arg := by
  cases i <;> cases h <;> rfl

theorem exists_commandFields {i : Instr} (p : Params) (h : i.format = .commandFrame) :
    ∃ index arg, commandFields p i = some (index, arg) := by
  cases i
  case cmdN | goIdleState | sendIfCond | crcOnOff | appCmd | sdSendOpCond | readOcr => exact ⟨_, _, rfl⟩
  all_goals cases h

/-- The row of an index and an argument has that index and that argument. -/
theorem commandFields_commandOf (p : Params) (index : Index) (arg : Word) :
    commandFields p (commandOf p index arg) = some (index, arg) := by
  unfold commandOf
  split_ifs with hgo hif hcrc happ hop hopHcs hocr
  · obtain ⟨rfl, rfl⟩ := hgo; rfl
  · exact hif.1 ▸ congrArg (fun a => some (p.idxSendIfCond, a)) (ifCondArg_fields hif.2)
  · obtain ⟨rfl, rfl⟩ := hcrc; rfl
  · obtain ⟨rfl, rfl⟩ := happ; rfl
  · obtain ⟨rfl, rfl⟩ := hop; rfl
  · obtain ⟨rfl, rfl⟩ := hopHcs; rfl
  · obtain ⟨rfl, rfl⟩ := hocr; rfl
  · rfl

/-- An index and an argument are no named frame's exactly when each test of the decoder before the generic row fails. -/
theorem isNamedCommand_eq_false_iff {p : Params} {index : Index} {arg : Word} : isNamedCommand p index arg = false ↔
    ¬ (index = p.idxGoIdle ∧ arg = 0) ∧ ¬ (index = p.idxSendIfCond ∧ arg.extractLsb' 12 20 = 0)
      ∧ ¬ (index = p.idxCrcOnOff ∧ arg = p.crcOnArg) ∧ ¬ (index = p.idxAppCmd ∧ arg = p.appCmdArg)
      ∧ ¬ (index = p.idxSdSendOpCond ∧ arg = opCondArg p false) ∧ ¬ (index = p.idxSdSendOpCond ∧ arg = opCondArg p true)
      ∧ ¬ (index = p.idxReadOcr ∧ arg = p.readOcrArg) := by
  rw [← Bool.not_eq_true]
  simp only [isNamedCommand, Bool.or_eq_true, Bool.and_eq_true, beq_iff_eq]
  tauto

theorem commandOf_eq_cmdN {p : Params} {index : Index} {arg : Word} (h : isNamedCommand p index arg = false) :
    commandOf p index arg = .cmdN index arg := by
  obtain ⟨hgo, hif, hcrc, happ, hop, hopHcs, hocr⟩ := isNamedCommand_eq_false_iff.mp h
  rw [commandOf, if_neg hgo, if_neg hif, if_neg hcrc, if_neg happ, if_neg hop, if_neg hopHcs, if_neg hocr]

/-- The generic row is taken only where no named frame has the index and the argument. -/
theorem commandOf_wf (p : Params) (index : Index) (arg : Word) : (commandOf p index arg).wf p = true := by
  cases hn : isNamedCommand p index arg with
  | false => simp [commandOf_eq_cmdN hn, Instr.wf, hn]
  | true =>
    unfold commandOf
    split_ifs with hgo hif hcrc happ hop hopHcs hocr
    case neg =>
      rw [isNamedCommand_eq_false_iff.mpr ⟨hgo, hif, hcrc, happ, hop, hopHcs, hocr⟩] at hn
      cases hn
    all_goals rfl

/-- Each index differs from those the decoder tests before it. -/
theorem Params.indicesDistinct_iff {p : Params} : p.indicesDistinct = true ↔
    (p.idxReadOcr ≠ p.idxSdSendOpCond ∧ p.idxReadOcr ≠ p.idxAppCmd ∧ p.idxReadOcr ≠ p.idxCrcOnOff
        ∧ p.idxReadOcr ≠ p.idxSendIfCond ∧ p.idxReadOcr ≠ p.idxGoIdle)
      ∧ (p.idxSdSendOpCond ≠ p.idxAppCmd ∧ p.idxSdSendOpCond ≠ p.idxCrcOnOff ∧ p.idxSdSendOpCond ≠ p.idxSendIfCond
        ∧ p.idxSdSendOpCond ≠ p.idxGoIdle)
      ∧ (p.idxAppCmd ≠ p.idxCrcOnOff ∧ p.idxAppCmd ≠ p.idxSendIfCond ∧ p.idxAppCmd ≠ p.idxGoIdle)
      ∧ (p.idxCrcOnOff ≠ p.idxSendIfCond ∧ p.idxCrcOnOff ≠ p.idxGoIdle)
      ∧ p.idxSendIfCond ≠ p.idxGoIdle := by
  rw [Params.indicesDistinct, decide_eq_true_eq, ← List.nodup_reverse]
  simp

/-- Where the six indices differ, a well-formed row is the row of its own index and argument. -/
theorem commandOf_of_commandFields {p : Params} {i : Instr} {index : Index} {arg : Word} (hd : p.indicesDistinct = true)
    (hwf : i.wf p = true) (h : commandFields p i = some (index, arg)) : commandOf p index arg = i := by
  rw [Params.indicesDistinct_iff] at hd
  cases i <;> cases h
  case cmdN => exact commandOf_eq_cmdN (by simpa [Instr.wf] using hwf)
  case sdSendOpCond hcs => cases hcs <;> simp [commandOf, hd, (opCondArg_ne p).symm]
  case goIdleState => simp [commandOf]
  case sendIfCond | crcOnOff | appCmd | readOcr => simp [commandOf, hd]

/-- Settles O4: what decodes is a frame that passes the checks of R84, as its row (`decode_command_iff`); and such a frame is the
one ENCODE builds from the row's index and argument. -/
theorem framesDecodeUnlessMalformed : Obligations.FramesDecodeUnlessMalformed := by
  refine ⟨fun p bytes => ?_, fun p bytes i hi => ?_⟩
  · simp only [decode_command_iff, ← Frame.checks_iff]
    constructor
    · rintro ⟨_, f, hbytes, hchecks, -⟩
      exact ⟨f, hbytes, hchecks⟩
    · rintro ⟨f, hbytes, hchecks⟩
      exact ⟨_, f, hbytes, hchecks, rfl⟩
  · obtain ⟨f, rfl, ⟨hprefix, hstop, hcrc⟩, rfl⟩ := decode_command_iff.mp hi
    refine ⟨commandOf_wf p f.index f.arg, ?_⟩
    rw [encode_of_commandFields (commandFields_commandOf p f.index f.arg), commandPacket,
      frameOf_of_wellFormed hprefix hstop hcrc]

/-! ## Responses -/

theorem Quad.exists_toList_iff {bytes : List Byte} : (∃ q : Quad, bytes = q.toList) ↔ bytes.length = 4 := by
  constructor
  · rintro ⟨q, rfl⟩
    exact q.toList_length
  · intro h
    match bytes, h with
    | [b0, b1, b2, b3], _ => exact ⟨⟨b0, b1, b2, b3⟩, rfl⟩

/-- Without extra bytes a response is the row of its status byte, whatever `extra` holds. -/
theorem responseOf_short {sh : Shape} {st : Byte} (h : readsExtra sh st = false) (q : Quad) :
    responseOf sh st q = .respR1 st := by
  unfold responseOf
  cases htr : isTruncated st
  · cases sh <;> simp_all [readsExtra, Shape.extraBytes]
  · rfl

/-- With them it is the row of the status byte and the echo. -/
theorem decodeResponse_echo (sh : Shape) (st : Byte) (q : Quad) : decodeResponse sh (st :: q.toList) =
    if st = sentinel then .error .sentinel
    else if readsExtra sh st then .ok (responseOf sh st q) else .error .responseLength := by
  cases htr : isTruncated st <;> cases sh <;>
    simp [decodeResponse, Quad.toList, readsExtra, Shape.extraBytes, responseOf, htr]

/-- A response decodes to the row EXEC_CMD takes it as: a status byte other than 0xFF, and an echo exactly where the shape and the
status give it one (R77, R85, R89). -/
theorem decode_response_iff {p : Params} {sh : Shape} {st : Byte} {rest : List Byte} {i : Instr} :
    decode p (.response sh (st :: rest)) = .ok i ↔ st ≠ sentinel
      ∧ ((readsExtra sh st = false ∧ rest = [] ∧ .respR1 st = i)
        ∨ (readsExtra sh st = true ∧ ∃ q : Quad, rest = q.toList ∧ responseOf sh st q = i)) := by
  by_cases hlen : rest.length = 4
  · obtain ⟨q, rfl⟩ := Quad.exists_toList_iff.mpr hlen
    have hne : q.toList ≠ [] := by simp [Quad.toList]
    simp only [decode, decodeResponse_echo, Quad.toList_inj, hne]
    by_cases hst : st = sentinel <;> cases hx : readsExtra sh st <;> simp [hst]
  · have hne (q : Quad) : rest ≠ q.toList := fun h => hlen (Quad.exists_toList_iff.mp ⟨q, h⟩)
    match rest, hlen with
    | [], _ => by_cases hst : st = sentinel <;> cases hx : readsExtra sh st <;> simp [decode, decodeResponse, hst, hx, hne]
    | [_], _ | [_, _], _ | [_, _, _], _ | _ :: _ :: _ :: _ :: _ :: _, _ => simp [decode, decodeResponse, hne]

/-- Settles O5: the two forms of a response and nothing else decode (`decode_response_iff`). -/
theorem responsesDecodeByLength : Obligations.ResponsesDecodeByLength := by
  intro p sh st rest
  refine ⟨?_, fun hst hshort => ?_, fun hst h2 h3 b0 b1 b2 b3 => ?_⟩
  · simp only [← readsExtra_iff, decode_response_iff]
    cases hx : readsExtra sh st <;> simp [sentinel, ← Quad.exists_toList_iff]
  · have hx : readsExtra sh st = false := by
      rw [← Bool.not_eq_true, readsExtra_iff]
      rcases hshort with h | h | h <;> simp [h]
    exact decode_response_iff.mpr ⟨hst, .inl ⟨hx, rfl, rfl⟩⟩
  · have hecho (sh : Shape) (hsh : sh ≠ .r1) : decode p (.response sh [st, b0, b1, b2, b3]) =
        .ok (responseOf sh st ⟨b0, b1, b2, b3⟩) :=
      decode_response_iff.mpr ⟨hst, .inr ⟨readsExtra_iff.mpr ⟨hsh, h2, h3⟩, _, rfl, rfl⟩⟩
    have htr : isTruncated st = false := by
      rw [isTruncated, illegalCmdFlag, crcErrFlag, h2, h3]; rfl
    rw [hecho .r3 nofun, hecho .r7 nofun]
    simp [responseOf, htr, be32]

/-! ## Every row -/

theorem decodeBody_encode {body : List BodyOp} (h : body.all BodyOp.wf = true) :
    decodeBody (body.map encodeBodyOp) = .ok body := by
  induction body with
  | nil => rfl
  | cons b bs ih =>
    obtain ⟨hb, hbs⟩ : b.wf = true ∧ bs.all BodyOp.wf = true := by simpa using h
    have hop : decodeBodyOp (encodeBodyOp b) = .ok b := by
      cases b
      case waitReady => rfl
      case execCmd index arg shape => exact if_pos hb
    rw [List.map_cons, decodeBody, hop, ih hbs]

theorem decode_encode_request {i : Instr} (p : Params) (hf : i.format = .request) (hwf : i.wf p = true) :
    decode p (encode p i) = .ok i := by
  cases i
  case withCsLow body => simp [encode, decode, decodeRequest, Request.ofOp, decodeBody_encode hwf]
  case execCmd index arg shape => exact if_pos hwf
  case decodeCmd | statusCheckError | statusIsTruncated | checkIfEcho | capacityFromOcr =>
    exact if_pos (beq_iff_eq.mp hwf)
  case crc7 | encode | waitReady | init => rfl
  all_goals cases hf

theorem decode_encode_frame {p : Params} {i : Instr} (hd : p.indicesDistinct = true) (hf : i.format = .commandFrame)
    (hwf : i.wf p = true) : decode p (encode p i) = .ok i := by
  obtain ⟨index, arg, hfields⟩ := exists_commandFields p hf
  rw [encode_of_commandFields hfields, decode_commandPacket, commandOf_of_commandFields hd hwf hfields]

theorem decode_encode_response {i : Instr} (p : Params) (hf : i.format = .response) (hwf : i.wf p = true) :
    decode p (encode p i) = .ok i := by
  cases i
  case respR1 st =>
    exact decode_response_iff.mpr ⟨bne_iff_ne.mp hwf, .inl ⟨rfl, rfl, rfl⟩⟩
  case respR3 st ocr | respR7 st echo =>
    simp only [Instr.wf, Bool.and_eq_true, bne_iff_ne, Bool.not_eq_true'] at hwf
    obtain ⟨hst, htr⟩ := hwf
    refine decode_response_iff.mpr ⟨hst, .inr ⟨?_, _, rfl, ?_⟩⟩
    · simp [readsExtra, Shape.extraBytes, htr]
    · simp [responseOf, htr]
  all_goals cases hf

/-- Settles O3, by the three formats of the opcode table. -/
theorem decodeOfEncode : Obligations.DecodeOfEncode := by
  intro p i hd hwf
  cases hf : i.format with
  | request => exact decode_encode_request p hf hwf
  | commandFrame => exact decode_encode_frame hd hf hwf
  | response => exact decode_encode_response p hf hwf

/-- Settles O1: each word is decoded. -/
theorem specWordsDecode : Obligations.SpecWordsDecode := by
  unfold Obligations.SpecWordsDecode
  decide +kernel

/-- Settles O29: each row is encoded. -/
theorem defaultCommandFrames : Obligations.DefaultCommandFrames := by
  unfold Obligations.DefaultCommandFrames
  decide +kernel

/-! ## At the fetch points of a step -/

/-- A complete response is run as its row. -/
theorem step_respond_exec {s : State} (hb : s.busy = true) (hm : s.micro = .respond) :
    step s = exec (responseOf s.shape s.status s.extra) s := by
  simp only [step, fetch, fetchBusy, fetchResponse, hb, hm, if_true]

/-- Settles O8: what the step runs at each point is what the packet there decodes to. -/
theorem stepRunsTheDecodedInstruction : Obligations.StepRunsTheDecodedInstruction := by
  refine ⟨fun s r rest i hb hh hd => step_request hb hh hd, ?_, ?_, ?_⟩
  · intro s index arg i hb hm hc hd
    cases (decode_commandPacket s.params index arg).symm.trans hd
    rw [step_sendFrame hb hm hc, exec_commandOf]
  · intro s i hb hm hx hd
    obtain ⟨-, ⟨-, -, rfl⟩ | ⟨hx', -⟩⟩ := decode_response_iff.mp hd
    · rw [step_respond_exec hb hm, responseOf_short hx]
    · cases hx.symm.trans hx'
  · intro s i hb hm hx hd
    obtain ⟨-, ⟨hx', -⟩ | ⟨-, q, hq, rfl⟩⟩ := decode_response_iff.mp hd
    · cases hx.symm.trans hx'
    · rw [step_respond_exec hb hm, Quad.toList_inj.mp hq]

end Sys2Proof

/-! PROOFS. What the CORE itself sends: the frame of each row (43_bus_transaction.md R142), the commands of INIT (30_encoding.md R80
to R83), and nothing on the bus that is malformed (R84). -/

namespace Sys2Proof.Machine

/-- Settles O28: each frame row is `sendCommand` of its index and argument, and the arguments are those of R81 and R82. -/
theorem commandRowsSendTheirFrames : Obligations.CommandRowsSendTheirFrames := by
  intro s sent
  refine ⟨fun _ _ => rfl, rfl, fun vhs pattern => ?_, rfl, rfl, rfl, ?_, rfl⟩
  · exact congrArg (fun arg => (.next (sendCommand s.params.idxSendIfCond arg s) : Out)) (ifCondArg_eq vhs pattern)
  · exact congrArg (fun arg => (.next (sendCommand s.params.idxSdSendOpCond arg s) : Out)) (opCondArg_eq s.params true)

/-- Settles O35: the invariant holds the operands, the stage and the shape of INIT's command (`InCommand`), and the step sends
its frame. -/
theorem initSendsTheCommandTable : Obligations.InitSendsTheCommandTable := by
  refine ⟨?_, by decide, by decide, by decide⟩
  intro s c hi hb hop hm
  have hr := hi.running hb
  have hc := running_ctx hr (running_cp hr (by rw [hm]; rfl))
  simp only [InCommand, hop] at hc
  obtain ⟨-, -, -, hcmd, hstage, -, hshape⟩ := hc
  exact ⟨_, step_sendFrame hb hm hcmd, rfl, hstage, hshape, rfl⟩

/-- The two writes of the CORE: the frame of EXEC_CMD and the dummy bytes of PowerUp. -/
theorem pendingCall_write {s : State} {bytes : List Byte} (h : pendingCall s = some (.write bytes)) :
    (s.micro = .frameWrite ∧ bytes = s.frame.toList)
      ∨ (s.micro = .powerUpWrite ∧ bytes = List.replicate s.params.nDummy 0xFF) := by
  unfold pendingCall at h
  split at h <;> cases h
  · exact .inl ⟨‹_›, rfl⟩
  · exact .inr ⟨‹_›, rfl⟩

/-- A write is recorded only as the answer to a call that writes. -/
theorem pendingCall_of_write_recorded {s t : State} {bytes : List Byte} {ok : Bool} (h : step s = .next t)
    (ht : t.trace = s.trace ++ [.write bytes ok]) : s.busy = true ∧ pendingCall s = some (.write bytes) := by
  rcases step_outside h with ⟨-, hout⟩ | ⟨-, hout⟩ | ⟨call, a, rest, hb, hc, -, hout⟩ | ⟨-, -, -, hout⟩
  all_goals
    have htrace := congrArg Outside.trace hout
    simp only [State.outside, logEvent_trace, ht] at htrace
  case inr.inr.inl =>
    cases call <;> simp_all [Call.event]
  all_goals simp at htrace

/-- Settles O56: a recorded write was outstanding (`pendingCall_of_write_recorded`). It is a frame ENCODE built, or PowerUp's,
where the invariant has chip-select high. -/
theorem everyWriteIsWellFormed : Obligations.EveryWriteIsWellFormed := by
  intro s t bytes ok hi h ht
  obtain ⟨hb, hc⟩ := pendingCall_of_write_recorded h ht
  have hr := hi.running hb
  rcases pendingCall_write hc with ⟨hm, rfl⟩ | ⟨hm, rfl⟩
  · have hcp := running_cp hr (by rw [hm]; rfl)
    simp only [CommandPoint, hm] at hcp
    obtain ⟨c, -, hframe⟩ := hcp
    refine .inr ⟨s.frame, rfl, Frame.checks_iff.mp ?_⟩
    rw [hframe]
    exact ⟨frameOf_prefixOk _ _, frameOf_stopOk _ _, frameOf_crcOk _ _⟩
  · obtain ⟨c, -, hp, -⟩ := init_of_micro hr (by rw [hm]; rfl) (by simp [hm]) (by simp [hm])
    simp only [InitPoint, hm] at hp
    obtain ⟨-, hstage, -, -, hcs⟩ := hp
    exact .inl ⟨rfl, hstage, hcs trivial⟩

end Sys2Proof.Machine

/-! PROOFS. CRC7 (40_crc7.md) and the checksum of the frames ENCODE builds (R104; 41_frame_codec.md R110, R111). The bits of the
register are themselves a message, and two facts about one turn of the loop carry the laws: fed with its own top bit the register
shifts (`crcBit_topBit`), and as a polynomial it is multiplied by x and reduced by the generator (`bitsPoly_crcBit`). -/

namespace Sys2Proof.Machine

/-! ## What the CRC7 request does -/

theorem crcFrom_replicate_zero (n : Nat) : crcFrom 0 (List.replicate n 0) = 0 := by
  induction n with
  | zero => rfl
  | succ n ih =>
    have hbyte : crcByte 0 0 = 0 := by decide
    rw [List.replicate_succ, crcFrom_cons, hbyte, ih]

/-- Settles O9: the request runs `crc7`, and zero bytes leave a zero register as it is (`crcFrom_replicate_zero`). -/
theorem crc7Result : Obligations.Crc7Result :=
  ⟨fun _ _ => rfl, crcFrom_replicate_zero, by decide +kernel⟩

/-! ## The algebraic laws (R105) -/

/-- One turn of the outer loop is linear. -/
theorem crcByte_xor (c d : Crc) (a b : Byte) : crcByte (c ^^^ d) (a ^^^ b) = crcByte c a ^^^ crcByte d b := by
  simp only [crcByte, bitsOf, crcBits_cons, crcBits_nil, BitVec.getLsbD_xor, crcBit_xor]

/-- The loop over bytes is linear, on messages of one length. -/
theorem crcFrom_xor {as bs : List Byte} (h : as.length = bs.length) (c d : Crc) :
    crcFrom (c ^^^ d) (List.zipWith (· ^^^ ·) as bs) = crcFrom c as ^^^ crcFrom d bs := by
  induction as generalizing bs c d with
  | nil =>
    cases List.length_eq_zero_iff.mp h.symm
    rfl
  | cons a as ih =>
    cases bs with
    | nil => cases h
    | cons b bs =>
      rw [List.zipWith_cons_cons, crcFrom_cons, crcByte_xor, ih (Nat.succ.inj h), crcFrom_cons, crcFrom_cons]

/-- The bits of the register, most significant first. -/
def registerBits (c : Crc) : List Bool :=
  [c.getLsbD 6, c.getLsbD 5, c.getLsbD 4, c.getLsbD 3, c.getLsbD 2, c.getLsbD 1, c.getLsbD 0]

/-- Fed with its own top bit the register shifts: there is no feedback. -/
theorem crcBit_topBit (c : Crc) : crcBit c (c.getLsbD 6) = c <<< 1 := by
  simp [crcBit]

/-- The residue: fed with its own bits the register is shifted out. -/
theorem crcBits_registerBits (c : Crc) : crcBits c (registerBits c) = 0 := by
  have feed (k : Nat) (hk : k ≤ 6) : crcBit (c <<< k) (c.getLsbD (6 - k)) = c <<< (k + 1) := by
    have htop : (c <<< k).getLsbD 6 = c.getLsbD (6 - k) := by
      rw [BitVec.getLsbD_shiftLeft]
      simp [Nat.not_lt.mpr hk]
    rw [← htop, crcBit_topBit, BitVec.shiftLeft_add]
  calc crcBits c (registerBits c)
    _ = c <<< 7 := by
      simp only [registerBits, crcBits_cons, crcBits_nil, crcBit_topBit, feed 1 (by decide), feed 2 (by decide),
        feed 3 (by decide), feed 4 (by decide), feed 5 (by decide), feed 6 (by decide)]
    _ = 0 := BitVec.shiftLeft_eq_zero (by decide)

/-- Fed with itself as the byte the table form makes of it, its own bits and a zero bit, the register is shifted out. -/
theorem crcByte_shifted_register (c : Crc) : crcByte c (c.setWidth 8 <<< 1) = 0 := by
  have hbits : bitsOf (c.setWidth 8 <<< 1) = registerBits c ++ [false] := by
    simp [bitsOf, registerBits]
  rw [crcByte, hbits, crcBits_append, crcBits_registerBits]
  decide

/-- The table form: the register enters the table's index, and the loop starts again from 0. -/
theorem crcByte_eq_table (c : Crc) (b : Byte) : crcByte c b = crcByte 0 ((c.setWidth 8 <<< 1) ^^^ b) := by
  calc crcByte c b
    _ = crcByte (c ^^^ 0) ((c.setWidth 8 <<< 1) ^^^ ((c.setWidth 8 <<< 1) ^^^ b)) := by simp
    _ = crcByte c (c.setWidth 8 <<< 1) ^^^ crcByte 0 ((c.setWidth 8 <<< 1) ^^^ b) := crcByte_xor c 0 _ _
    _ = crcByte 0 ((c.setWidth 8 <<< 1) ^^^ b) := by simp [crcByte_shifted_register]

/-- The incremental form. -/
theorem crc7_concat (ms : List Byte) (b : Byte) : crc7 (ms ++ [b]) = crcByte (crc7 ms) b :=
  crcFrom_append 0 ms [b]

/-- Settles O11, one law after the other; the table form is the incremental form with the register moved into the index. -/
theorem crc7AlgebraicLaws : Obligations.Crc7AlgebraicLaws :=
  ⟨fun _ _ h => crcFrom_xor h 0 0, fun ms => crcBits_registerBits (crc7 ms), crc7_concat,
    fun ms b => (crc7_concat ms b).trans (crcByte_eq_table (crc7 ms) b), by decide⟩

/-! ## The register as a remainder (R100) -/

section

open Polynomial

/-- A bit as a coefficient. -/
noncomputable def bitCoeff (b : Bool) : (ZMod 2)[X] := if b then 1 else 0

/-- A sequence of bits as a polynomial, the first bit the coefficient of the highest power. -/
noncomputable def bitsPoly (bs : List Bool) : (ZMod 2)[X] := bs.foldl (fun acc b => acc * X + bitCoeff b) 0

/-- The generator polynomial of R100, of which `crcPoly` holds the terms below x^7. -/
noncomputable def crcGenerator : (ZMod 2)[X] := X ^ 7 + X ^ 3 + 1

@[simp] theorem bitCoeff_false : bitCoeff false = 0 := rfl

theorem bitCoeff_xor (a b : Bool) : bitCoeff (a ^^ b) = bitCoeff a + bitCoeff b := by
  cases a <;> cases b <;> simp [bitCoeff, CharTwo.add_self_eq_zero]

theorem bitsPoly_concat (bs : List Bool) (b : Bool) : bitsPoly (bs ++ [b]) = bitsPoly bs * X + bitCoeff b := by
  simp [bitsPoly]

theorem degree_bitsPoly_lt (bs : List Bool) : (bitsPoly bs).degree < bs.length := by
  induction bs using List.reverseRecOn with
  | nil => simp [bitsPoly]
  | append_singleton bs b ih =>
    rw [bitsPoly_concat, List.length_append]
    rw [degree_lt_iff_coeff_zero] at ih ⊢
    intro m hm
    obtain ⟨k, rfl⟩ : ∃ k, m = k + 1 := ⟨m - 1, by simp at hm; omega⟩
    have hlow : (bitCoeff b).coeff (k + 1) = 0 := by cases b <;> simp [bitCoeff, coeff_one]
    rw [coeff_add, coeff_mul_X, ih k (by simpa using hm), hlow, add_zero]

/-- The bits after one turn: moved up by one, with the feedback bit into taps 0 and 3. -/
theorem registerBits_crcBit (c : Crc) (b : Bool) :
    registerBits (crcBit c b) = [c.getLsbD 5, c.getLsbD 4, c.getLsbD 3, c.getLsbD 2 ^^ (c.getLsbD 6 ^^ b), c.getLsbD 1,
      c.getLsbD 0, c.getLsbD 6 ^^ b] := by
  unfold crcBit
  cases c.getLsbD 6 ^^ b <;> simp [registerBits, crcPoly]

/-- One turn multiplies the register by x and adds the bit at x^7, less the generator where the feedback bit is set. -/
theorem bitsPoly_crcBit (c : Crc) (b : Bool) :
    bitsPoly (registerBits c) * X + bitCoeff b * X ^ 7 =
      bitsPoly (registerBits (crcBit c b)) + crcGenerator * bitCoeff (c.getLsbD 6 ^^ b) := by
  have htwo : (2 : (ZMod 2)[X]) = 0 := CharTwo.two_eq_zero
  rw [registerBits_crcBit]
  simp only [bitsPoly, registerBits, List.foldl_cons, List.foldl_nil, bitCoeff_xor, crcGenerator]
  linear_combination -(bitCoeff (c.getLsbD 6) + bitCoeff b) * (X ^ 3 + 1) * htwo

/-- Division by the generator, along the loop: what has been read, times x^7, is a multiple of the generator and the register. -/
theorem exists_quotient_crcBits (bs : List Bool) :
    ∃ q : (ZMod 2)[X], bitsPoly (registerBits (crcBits 0 bs)) + crcGenerator * q = bitsPoly bs * X ^ 7 := by
  induction bs using List.reverseRecOn with
  | nil => exact ⟨0, by simp [bitsPoly, registerBits]⟩
  | append_singleton bs b ih =>
    obtain ⟨q, hq⟩ := ih
    refine ⟨q * X + bitCoeff ((crcBits 0 bs).getLsbD 6 ^^ b), ?_⟩
    have hturn := bitsPoly_crcBit (crcBits 0 bs) b
    rw [crcBits_append, crcBits_cons, crcBits_nil, bitsPoly_concat]
    linear_combination hq * X - hturn

theorem crcGenerator_monic : crcGenerator.Monic := by
  unfold crcGenerator
  monicity!

theorem degree_crcGenerator : crcGenerator.degree = 7 := by
  unfold crcGenerator
  compute_degree!

/-- The register after a sequence of bits is the remainder: it has seven bits, so its degree is below the generator's. -/
theorem bitsPoly_modByMonic (bs : List Bool) :
    (bitsPoly bs * X ^ 7) %ₘ crcGenerator = bitsPoly (registerBits (crcBits 0 bs)) := by
  obtain ⟨q, hq⟩ := exists_quotient_crcBits bs
  have hdegree : (bitsPoly (registerBits (crcBits 0 bs))).degree < crcGenerator.degree := by
    rw [degree_crcGenerator]
    exact degree_bitsPoly_lt (registerBits (crcBits 0 bs))
  exact (div_modByMonic_unique q _ crcGenerator_monic ⟨hq, hdegree⟩).2

/-- Settles O10: the byte loop is the bit loop (`crcFrom_eq_bits`), and that divides (`bitsPoly_modByMonic`). -/
theorem crc7IsThePolynomialRemainder : Obligations.Crc7IsThePolynomialRemainder := by
  refine ⟨fun ms => ?_, by decide +kernel⟩
  rw [crc7, crcFrom_eq_bits]
  exact bitsPoly_modByMonic (ms.flatMap bitsOf)

end

/-! ## The frames ENCODE builds -/

/-- ENCODE with a destination of six bytes or more leaves the frame of its operands in `frame`. -/
theorem exists_exec_encode {index : Index} {arg : Word} {len : Nat} {s : State} (hlen : 6 ≤ len) :
    ∃ t, exec (.encode index arg len) s = .next t ∧ t.frame = frameOf index arg :=
  ⟨_, if_neg (Nat.not_lt.mpr hlen), rfl⟩

/-- Wherever ENCODE goes on, it has left the frame of its operands in `frame`. -/
theorem exec_encode_frame {index : Index} {arg : Word} {len : Nat} {s t : State}
    (h : exec (.encode index arg len) s = .next t) : t.frame = frameOf index arg := by
  simp only [exec, execEncode] at h
  split at h
  · cases h
  · cases h
    rfl

/-- Settles O13: a built frame passes the three checks, and its index and argument can be read back (`frameOf_injective`). -/
theorem encodedFramesCarryTheirChecksum : Obligations.EncodedFramesCarryTheirChecksum := by
  intro index arg len s hlen
  obtain ⟨t, ht, hframe⟩ := exists_exec_encode (index := index) (arg := arg) (s := s) hlen
  obtain ⟨hprefix, hstop, hcrc⟩ :=
    Frame.checks_iff.mp ⟨frameOf_prefixOk index arg, frameOf_stopOk index arg, frameOf_crcOk index arg⟩
  refine ⟨t, frameOf index arg, ht, hframe, hcrc, hprefix, hstop, fun index' arg' len' s' t' ht' hsame => ?_⟩
  exact frameOf_injective ((exec_encode_frame ht').symm.trans hsame)

end Sys2Proof.Machine

/-! PROOFS. The frame codec (41_frame_codec.md R110 to R113): what ENCODE and DECODE_CMD do to the whole state, each said once,
through `frameOf` and the fields of a `Frame`, and that the second undoes the first. -/

namespace Sys2Proof.Machine

/-! ## What the two requests do -/

/-- A destination shorter than a frame stops the CORE (60_exceptions.md R198). -/
theorem exec_encode_short {index : Index} {arg : Word} {len : Nat} {s : State} (hlen : len < 6) :
    exec (.encode index arg len) s = .fault .bufferTooShort :=
  if_pos hlen

theorem exec_encode_fits {index : Index} {arg : Word} {len : Nat} {s : State} (hlen : 6 ≤ len) :
    exec (.encode index arg len) s = .next { s.returned (.frame (frameOf index arg)) with
      frame := frameOf index arg, crc := frameCrc index arg } :=
  if_neg (Nat.not_lt.mpr hlen)

/-- Six bytes are a frame, and its fields and checks are returned whether or not the checks hold. -/
theorem exec_decodeCmd_toList (f : Frame) (s : State) :
    exec (.decodeCmd f.toList) s = .next {
      s.returned (.decoded f.index f.arg f.prefixOk f.stopOk f.crcOk) with crc := crc7 f.covered } :=
  rfl

/-- Of a frame ENCODE builds, the operands come back and the three checks hold, from every state. -/
theorem exec_decodeCmd_frameOf (index : Index) (arg : Word) (s : State) :
    exec (.decodeCmd (frameOf index arg).toList) s = .next {
      s.returned (.decoded index arg true true true) with crc := frameCrc index arg } := by
  rw [exec_decodeCmd_toList, frameOf_index, frameOf_arg, frameOf_prefixOk, frameOf_stopOk, frameOf_crcOk, frameOf_covered]

/-! ## The statements -/

/-- Settles O15: ENCODE leaves the frame of its operands in `frame` (`exists_exec_encode`), and of that frame DECODE_CMD returns
them (`exec_decodeCmd_frameOf`). -/
theorem decodeCmdOfEncode : Obligations.DecodeCmdOfEncode := by
  intro index arg s
  obtain ⟨t, ht, hframe⟩ := exists_exec_encode (index := index) (arg := arg) (s := s) (le_refl 6)
  exact ⟨t, _, frameOf index arg, ht, hframe, exec_decodeCmd_frameOf index arg t, rfl⟩

/-- Settles O12: below six bytes the fault, from six on the frame of the operands, whose bytes R110 writes out. -/
theorem encodeResult : Obligations.EncodeResult :=
  ⟨fun _ _ _ _ => ⟨exec_encode_short, exec_encode_fits⟩, by decide +kernel, by decide +kernel⟩

/-- Settles O14: six bytes are the list of a frame, and R112 writes its fields and checks out. -/
theorem decodeCmdResult : Obligations.DecodeCmdResult :=
  ⟨fun b0 b1 b2 b3 b4 b5 s => exec_decodeCmd_toList ⟨b0, b1, b2, b3, b4, b5⟩ s, by decide +kernel⟩

end Sys2Proof.Machine

/-! PROOFS. The response parser (42_response_parser.md R120 to R127). The flag that decides STATUS_CHECK_ERROR is the lowest one
set (`statusError_eq_some_of_lowest`); of an echo CHECK_IF_ECHO reads two fields and CAPACITY_FROM_OCR one bit. -/

namespace Sys2Proof.Machine

/-! ## The error flags of a status byte (R121) -/

/-- The number of the flag that reports a kind (10_state.md R26). -/
def RejectKind.bit : RejectKind → Nat
  | .illegalCommand => 2
  | .crcError => 3
  | .eraseSequenceError => 4
  | .addressError => 5
  | .parameterError => 6

theorem getLsbD_eq_false_of_extractLsb'_eq_zero {w start len i : Nat} {x : BitVec w} (hzero : x.extractLsb' start len = 0)
    (hlow : start ≤ i) (hhigh : i < start + len) : x.getLsbD i = false := by
  have hbit : (x.extractLsb' start len).getLsbD (i - start) = false := by rw [hzero]; exact BitVec.getLsbD_zero
  rw [BitVec.getLsbD_extractLsb', Nat.add_sub_cancel' hlow] at hbit
  simpa [show i - start < len by omega] using hbit

/-- The priority law: a set flag with no flag below it names the error, whatever the flags above it are. -/
theorem statusError_eq_some_of_lowest {st : Byte} {kind : RejectKind} (hbelow : st.extractLsb' 2 (kind.bit - 2) = 0)
    (hset : st.getLsbD kind.bit = true) : statusError st = some kind := by
  have hclear (i : Nat) (hlow : 2 ≤ i) (hhigh : i < kind.bit) : st.getLsbD i = false :=
    getLsbD_eq_false_of_extractLsb'_eq_zero hbelow hlow (by omega)
  cases kind <;> dsimp only [RejectKind.bit] at hset hclear <;>
    simp [statusError, illegalCmdFlag, crcErrFlag, eraseSeqErrFlag, addrErrFlag, paramErrFlag, hset, hclear,
      -BitVec.getLsbD_eq_getElem]

/-! ## What the requests do -/

theorem exec_statusCheckError_ok {st : Byte} (s : State) (hok : statusError st = none) :
    exec (.statusCheckError [st]) s = .next { s.returned .none with status := st } := by
  simp only [exec, execStatusCheckError, hok]
  rfl

theorem exec_statusCheckError_rejected {st : Byte} {kind : RejectKind} (s : State) (hrejected : statusError st = some kind) :
    exec (.statusCheckError [st]) s = .next { s.failed (.commandRejected kind) with status := st } := by
  simp only [exec, execStatusCheckError, hrejected]
  rfl

theorem exec_statusIsTruncated (st : Byte) (s : State) :
    exec (.statusIsTruncated [st]) s = .next { s.returned (.bit (isTruncated st)) with status := st } :=
  rfl

/-- The two flags are below bit 7. -/
theorem isTruncated_and_0x7F (st : Byte) : isTruncated (st &&& 0x7F) = isTruncated st := by
  simp [isTruncated, illegalCmdFlag, crcErrFlag]

theorem exec_checkIfEcho_failed {q : Quad} {pattern : Byte} {s : State} {e : Err} (he : checkEcho s.params pattern q = some e) :
    exec (.checkIfEcho q.toList pattern) s = .next (s.failed e) := by
  simp only [exec, execCheckIfEcho, Quad.toList, quadOfBytes, he]
  rfl

theorem exec_checkIfEcho_ok {q : Quad} {pattern : Byte} {s : State} (hok : checkEcho s.params pattern q = none) :
    exec (.checkIfEcho q.toList pattern) s = .next (s.returned .none) := by
  simp only [exec, execCheckIfEcho, Quad.toList, quadOfBytes, hok]
  rfl

theorem checkEcho_of_match {p : Params} {pattern : Byte} {q : Quad} (hvoltage : q.voltage = p.vhsCode)
    (hpattern : q.pattern = pattern) : checkEcho p pattern q = none := by
  simp [checkEcho, hvoltage, hpattern]

/-- The voltage code is tested first: the pattern does not matter. -/
theorem checkEcho_of_voltage_ne {p : Params} {q : Quad} (pattern : Byte) (hvoltage : q.voltage ≠ p.vhsCode) :
    checkEcho p pattern q = some .unexpectedVoltage :=
  if_pos hvoltage

theorem checkEcho_of_pattern_ne {p : Params} {pattern : Byte} {q : Quad} (hvoltage : q.voltage = p.vhsCode)
    (hpattern : q.pattern ≠ pattern) : checkEcho p pattern q = some .checkPatternMismatch := by
  simp [checkEcho, hvoltage, hpattern]

/-- The class is returned and `capacity` is left as it was. -/
theorem exec_capacityFromOcr_toList (q : Quad) (s : State) :
    exec (.capacityFromOcr q.toList) s = .next (s.returned (.capacity (capacityFromOcr q))) :=
  rfl

theorem capacityFromOcr_of_ccs {q : Quad} (hccs : q.ccs = true) : capacityFromOcr q = .highOrExtended :=
  if_pos hccs

theorem capacityFromOcr_of_not_ccs {q : Quad} (hccs : q.ccs = false) : capacityFromOcr q = .standard :=
  if_neg (Bool.eq_false_iff.mp hccs)

/-! ## The statements -/

/-- Settles O16: clear flags are no error (`statusError_eq_none`), and of the set ones the lowest decides
(`statusError_eq_some_of_lowest`). -/
theorem statusCheckErrorResult : Obligations.StatusCheckErrorResult := by
  intro st s
  have rejected {kind : RejectKind} (hbelow : st.extractLsb' 2 (kind.bit - 2) = 0) (hset : st.getLsbD kind.bit = true) :=
    exec_statusCheckError_rejected s (statusError_eq_some_of_lowest hbelow hset)
  exact ⟨fun hclear => exec_statusCheckError_ok s (statusError_eq_none.mpr hclear),
    fun hset => exec_statusCheckError_rejected s (statusError_illegal.mpr hset),
    rejected (kind := .crcError), rejected (kind := .eraseSequenceError),
    rejected (kind := .addressError), rejected (kind := .parameterError)⟩

/-- Settles O17: bit 7 is none of the two bits `isTruncated` reads; the count is R122's. -/
theorem statusIsTruncatedResult : Obligations.StatusIsTruncatedResult :=
  ⟨exec_statusIsTruncated, by decide, fun st => (isTruncated_and_0x7F st).symm⟩

/-- Settles O18: the four bytes are a `Quad`, whose voltage code `checkEcho` tests before its pattern. -/
theorem checkIfEchoResult : Obligations.CheckIfEchoResult := fun e0 e1 e2 e3 pattern _ =>
  let q : Quad := ⟨e0, e1, e2, e3⟩
  ⟨fun hvoltage hpattern => exec_checkIfEcho_ok (q := q) (checkEcho_of_match hvoltage hpattern),
    fun hvoltage => exec_checkIfEcho_failed (q := q) (checkEcho_of_voltage_ne pattern hvoltage),
    fun hvoltage hpattern => exec_checkIfEcho_failed (q := q) (checkEcho_of_pattern_ne hvoltage hpattern)⟩

/-- Settles O19: the four bytes are a `Quad`, of which `capacityFromOcr` reads the bit `Quad.ccs`. -/
theorem capacityFromOcrResult : Obligations.CapacityFromOcrResult := by
  intro o0 o1 o2 o3 s
  let q : Quad := ⟨o0, o1, o2, o3⟩
  have hexec := exec_capacityFromOcr_toList q s
  exact ⟨fun hccs => capacityFromOcr_of_ccs (q := q) hccs ▸ hexec, fun hccs => capacityFromOcr_of_not_ccs (q := q) hccs ▸ hexec⟩

end Sys2Proof.Machine

/-! PROOFS. Chip-select around the commands (43_bus_transaction.md R148, R149, R151). A step of a command that is not INIT's
sets no chip-select and does not leave the body it runs in (`step_keepsScope`); the two calls of a scope are `step_beginScope` and
`step_restore`. The scope law is the invariant `ScopeTrace` of a run. -/

namespace Sys2Proof.Machine

variable {s t : State}

/-! ## The calls of WITH_CS_LOW -/

/-- A WITH_CS_LOW of these elements whose assertion has been issued. -/
def beginScope (elems : List BodyElem) (s : State) : State :=
  { s with busy := true, op := .withCsLow elems [], cmd := none, micro := .csLow }

theorem exec_withCsLow {body : List BodyOp} {elems : List BodyElem} (h : resolveBody body = some elems) :
    exec (.withCsLow body) s = .next (beginScope elems s) := by
  simp only [exec, execWithCsLow, h]
  rfl

theorem exec_withCsLow_next {body : List BodyOp} (h : exec (.withCsLow body) s = .next t) :
    ∃ elems, t = beginScope elems s := by
  cases hr : resolveBody body with
  | none => simp only [exec, execWithCsLow, hr] at h; cases h
  | some elems => rw [exec_withCsLow hr] at h; cases h; exact ⟨elems, rfl⟩

theorem resolveBody_of_wf {body : List BodyOp} (h : body.all BodyOp.wf = true) : ∃ elems, resolveBody body = some elems := by
  induction body with
  | nil => exact ⟨[], rfl⟩
  | cons b body ih =>
    rw [List.all_cons, Bool.and_eq_true] at h
    obtain ⟨hb, hbody⟩ := h
    obtain ⟨elems, he⟩ := ih hbody
    cases b with
    | waitReady => exact ⟨.waitReady :: elems, by simp [resolveBody, he]⟩
    | execCmd index arg shape =>
      obtain ⟨sh, hsh⟩ := Option.isSome_iff_exists.mp hb
      exact ⟨.execCmd index arg sh :: elems, by simp [resolveBody, he, hsh]⟩

/-- The state in which the body of a WITH_CS_LOW begins. -/
def State.asserted (s : State) (rest : List Answer) : State := { s with
  busy := true
  cmd := none
  csLevel := .low
  scopeOpen := true
  answers := rest
  trace := s.trace ++ [.cs .low true] }

/-- The assertion succeeds: the first element of the body begins, or with none the restore. -/
theorem step_beginScope {elems : List BodyElem} {a : Answer} {rest : List Answer} (ha : s.answers = a :: rest)
    (hf : a.fault = false) : step (beginScope elems s) = .next (nextElem elems [] (s.asserted rest)) := by
  rw [step_csLow (s := beginScope elems s) rfl rfl ha, hf]
  cases elems with
  | nil => rfl
  | cons elem elems => cases elem <;> rfl

/-- The assertion faults: the scope is not entered, so nothing is restored. -/
theorem step_beginScope_fault {elems : List BodyElem} {a : Answer} {rest : List Answer} (ha : s.answers = a :: rest)
    (hf : a.fault = true) : step (beginScope elems s) = .next { s.failed .chipSelectFault with
      csLevel := .unknown, answers := rest, trace := s.trace ++ [.cs .low false] } := by
  rw [step_csLow (s := beginScope elems s) rfl rfl ha, hf]
  rfl

/-- What a restore leaves behind it, before the scope hands on its result or its error. -/
def State.restored (s : State) (a : Answer) (rest : List Answer) : State := { s with
  csLevel := if a.fault then .unknown else .high
  scopeOpen := false
  answers := rest
  trace := s.trace ++ [.cs .high (!a.fault)] }

theorem step_restore {body : List BodyElem} {results : List BodyResult} {inFlight : Option Err} {a : Answer}
    {rest : List Answer} (hb : s.busy = true) (hop : s.op = .withCsLow body results) (hm : s.micro = .csHigh inFlight)
    (ha : s.answers = a :: rest) :
    step s = .next (match scopeError inFlight a.fault with
      | none => (s.restored a rest).returned (.results results)
      | some e => (s.restored a rest).failed e) := by
  rw [step_csHigh hb hm ha]
  simp only [csHighAnswered, hop]
  cases hf : a.fault <;> cases scopeError inFlight _ <;>
    simp [State.restored, State.returned, State.failed, returnOk, failOp, endOp, csAfter, hf]

/-- Settles O24: a body of legal elements is accepted, and the answer to its assertion is the fault. -/
theorem withCsLowAssertionFault : Obligations.WithCsLowAssertionFault := by
  intro s body a rest hwf hf ha
  obtain ⟨elems, he⟩ := resolveBody_of_wf hwf
  exact ⟨_, exec_withCsLow he, step_beginScope_fault ha hf⟩

/-! ## A command sets no chip-select -/

/-- The body of a WITH_CS_LOW runs, or its restore is out: chip-select has been asserted and the restore is not answered. -/
def InBody (s : State) : Prop :=
  s.busy = true ∧ (∃ rest done, s.op = .withCsLow rest done) ∧ (s.micro.isCommand = true ∨ ∃ e, s.micro = .csHigh e)

/-- From `s` to `t` chip-select is left alone, and a body that runs is not left but through its restore. -/
def KeepsScope (s t : State) : Prop :=
  t.csLevel = s.csLevel ∧ t.scopeOpen = s.scopeOpen ∧ (InBody s → InBody t)

theorem raise_keepsScope {e : Err} (hn : s.notInit) (h : raise e s = .next t) : KeepsScope s t := by
  cases hop : s.op with
  | none | waitReady | execCmd =>
    simp only [raise, hop] at h
    cases h
    exact ⟨rfl, rfl, fun ⟨_, ⟨_, _, hop'⟩, _⟩ => nomatch hop.symm.trans hop'⟩
  | withCsLow =>
    simp only [raise, hop] at h
    cases h
    exact ⟨rfl, rfl, fun ⟨hb, _⟩ => ⟨hb, ⟨_, _, rfl⟩, .inr ⟨_, rfl⟩⟩⟩
  | init c => exact absurd hop (hn c)

theorem nextElem_inBody (body : List BodyElem) (done : List BodyResult) (hb : s.busy = true) :
    InBody (nextElem body done s) := by
  cases body with
  | nil => exact ⟨hb, ⟨_, _, rfl⟩, .inr ⟨_, rfl⟩⟩
  | cons elem rest => cases elem <;> exact ⟨hb, ⟨_, _, rfl⟩, .inl rfl⟩

theorem nextElem_keepsScope (body : List BodyElem) (done : List BodyResult) (s : State) :
    KeepsScope s (nextElem body done s) := by
  refine ⟨?_, ?_, fun h => nextElem_inBody _ _ h.1⟩
  all_goals
    unfold nextElem
    split <;> rfl

/-- A WAIT_READY of a body has succeeded. -/
theorem readyOk_body {rest : List BodyElem} {done : List BodyResult} (hc : s.cmd = none) (hop : s.op = .withCsLow rest done) :
    readyOk s = nextElem rest (done ++ [.ready]) { s with errCode := none } := by
  simp only [readyOk, plainReadyOk, hc, hop]

theorem readyOk_keepsScope (hn : s.notInit) : KeepsScope s (readyOk s) := by
  cases hc : s.cmd with
  | some c =>
    simp only [readyOk, hc]
    exact ⟨rfl, rfl, fun ⟨hb, hbody, _⟩ => ⟨hb, hbody, .inl rfl⟩⟩
  | none =>
    cases hop : s.op with
    | none | waitReady | execCmd =>
      simp only [readyOk, plainReadyOk, hc, hop]
      exact ⟨rfl, rfl, fun ⟨_, ⟨_, _, hop'⟩, _⟩ => nomatch hop.symm.trans hop'⟩
    | withCsLow rest done =>
      rw [readyOk_body hc hop]
      exact (nextElem_keepsScope rest _ { s with errCode := none } :)
    | init c => exact absurd hop (hn c)

theorem cmdOk_keepsScope {r : CmdResult} (hn : s.notInit) (h : cmdOk r s = .next t) : KeepsScope s t := by
  cases hop : s.op with
  | none | waitReady | execCmd =>
    simp only [cmdOk, hop] at h
    cases h
    exact ⟨rfl, rfl, fun ⟨_, ⟨_, _, hop'⟩, _⟩ => nomatch hop.symm.trans hop'⟩
  | withCsLow =>
    simp only [cmdOk, hop] at h
    cases h
    exact nextElem_keepsScope _ _ s
  | init c => exact absurd hop (hn c)

/-- The command goes on to another of its points. -/
theorem keepsScope_command {u : State} {m : Micro} (hm : m.isCommand = true) (hb : u.busy = s.busy) (hop : u.op = s.op)
    (hl : u.csLevel = s.csLevel) (ho : u.scopeOpen = s.scopeOpen) : KeepsScope s { u with micro := m } :=
  ⟨hl, ho, fun ⟨hb', ⟨rest, done, hop'⟩, _⟩ => ⟨hb.trans hb', ⟨rest, done, hop.trans hop'⟩, .inl hm⟩⟩

theorem pollAttempt_keepsScope (hn : s.notInit) (h : pollAttempt s = .next t) : KeepsScope s t := by
  unfold pollAttempt at h
  split at h
  · exact raise_keepsScope hn h
  · cases h; exact keepsScope_command (u := { s with respCnt := _ }) rfl rfl rfl rfl rfl

theorem readyByte_keepsScope {b : Byte} (hn : s.notInit) (h : readyByte b s = .next t) : KeepsScope s t := by
  unfold readyByte at h
  split at h
  · cases h; exact readyOk_keepsScope hn
  · split at h
    · exact raise_keepsScope hn h
    · cases h; exact keepsScope_command rfl rfl rfl rfl rfl

theorem statusByte_keepsScope (b : Byte) (s : State) : KeepsScope s (statusByte b s) := by
  unfold statusByte
  dsimp only
  split <;> exact keepsScope_command (u := { s with status := b }) rfl rfl rfl rfl rfl

theorem pollByte_keepsScope {b : Byte} (hn : s.notInit) (h : pollByte b s = .next t) : KeepsScope s t := by
  unfold pollByte at h
  split at h
  · exact pollAttempt_keepsScope hn h
  · cases h; exact statusByte_keepsScope b s

theorem extraByte_keepsScope (k : Fin 4) (b : Byte) (s : State) : KeepsScope s (extraByte k b s) := by
  unfold extraByte
  dsimp only
  split <;> exact keepsScope_command (u := { s with extra := s.extra.set k b }) rfl rfl rfl rfl rfl

theorem respond_keepsScope {status : Byte} {echo : Option Quad} (hn : s.notInit) (h : respond status echo s = .next t) :
    KeepsScope s t := by
  unfold respond receive at h
  dsimp only at h
  split at h
  · exact pollAttempt_keepsScope hn h
  · split at h
    · exact (raise_keepsScope (by exact hn) h :)
    · exact (cmdOk_keepsScope (by exact hn) h :)

theorem resume_keepsScope {a : Answer} {call : Call} (hm : s.micro.isCommand = true) (hn : s.notInit)
    (hc : pendingCall s = some call) (h : resume a s = .next t) : KeepsScope s t := by
  have hn' : (logEvent (call.event a) s).notInit := hn
  simp only [resume, hc, logEvent_micro] at h
  cases hmicro : s.micro <;> rw [hmicro] at hm <;> simp only [hmicro] at h
  case readyXfer =>
    split at h
    · exact (raise_keepsScope hn' h :)
    · exact (readyByte_keepsScope hn' h :)
  case readyDelay => cases h; exact keepsScope_command rfl rfl rfl rfl rfl
  case frameWrite =>
    split at h
    · exact (raise_keepsScope hn' h :)
    · exact (pollAttempt_keepsScope (by exact hn') h :)
  case pollXfer =>
    split at h
    · exact (raise_keepsScope hn' h :)
    · exact (pollByte_keepsScope hn' h :)
  case extraXfer =>
    split at h
    · exact (raise_keepsScope hn' h :)
    · cases h; exact (extraByte_keepsScope _ _ (logEvent (call.event a) s) :)
  case sendFrame | respond => simp [pendingCall, hmicro] at hc
  all_goals cases hm

/-- A step of `wait_ready` or `exec_cmd`, outside INIT. -/
theorem step_keepsScope (hb : s.busy = true) (hm : s.micro.isCommand = true) (hn : s.notInit) (h : step s = .next t) :
    KeepsScope s t := by
  rcases step_busy_cases hb with hs | ⟨c, -, -, hs⟩ | ⟨-, hs⟩ | ⟨hfinish, -⟩ | ⟨call, a, rest, hc, -, hs⟩
  · rw [hs] at h; cases h; exact ⟨rfl, rfl, id⟩
  · rw [hs] at h; cases h; exact ⟨rfl, rfl, fun ⟨_, hbody, _⟩ => ⟨rfl, hbody, .inl rfl⟩⟩
  · obtain ⟨echo, he⟩ := exec_responseOf s.shape s.status s.extra
    exact respond_keepsScope hn ((he s).symm.trans (hs.symm.trans h))
  · rw [hfinish] at hm; cases hm
  · exact (resume_keepsScope (s := { s with answers := rest }) hm hn hc (hs.symm.trans h) :)

theorem event_isCs_of_command {a : Answer} {call : Call} (hm : s.micro.isCommand = true) (hc : pendingCall s = some call) :
    (call.event a).isCs = false := by
  cases hmicro : s.micro <;> rw [hmicro] at hm <;> simp only [pendingCall, hmicro] at hc
  case readyXfer | readyDelay | frameWrite | pollXfer | extraXfer => cases hc; rfl
  case sendFrame | respond => cases hc
  all_goals cases hm

/-- What such a step records sets no chip-select, and the request port is not looked at. -/
theorem step_command_events (hb : s.busy = true) (hm : s.micro.isCommand = true) (h : step s = .next t) :
    t.host = s.host ∧ ∃ new, t.trace = s.trace ++ new ∧ ∀ e ∈ new, e.isCs = false := by
  rcases step_outside h with ⟨hb', -⟩ | ⟨-, hout⟩ | ⟨call, a, rest, -, hc, -, hout⟩ | ⟨-, hfinish, -⟩
  · rw [hb] at hb'; cases hb'
  · exact ⟨congrArg Outside.host hout, [], (congrArg Outside.trace hout).trans (List.append_nil _).symm, by simp⟩
  · refine ⟨congrArg Outside.host hout, [call.event a], congrArg Outside.trace hout, ?_⟩
    intro e he
    rw [List.mem_singleton.mp he]
    exact event_isCs_of_command hm hc
  · rw [hfinish] at hm; cases hm

/-- Settles O27: by the invariant a standalone command is at a point of `wait_ready` or `exec_cmd`. -/
theorem standaloneCommandsLeaveChipSelect : Obligations.StandaloneCommandsLeaveChipSelect := by
  intro s t hi hb hop h
  have hr := hi.running hb
  have hm : s.micro.isCommand = true := by
    have hpoint : CommandPoint s := by rcases hop with hop | hop <;> simp only [Running, hop] at hr <;> exact hr.1
    cases hm : s.micro <;> simp only [CommandPoint, hm] at hpoint <;> rfl
  have hn : s.notInit := by rcases hop with hop | hop <;> simp [State.notInit, hop]
  obtain ⟨hlevel, hopen, -⟩ := step_keepsScope hb hm hn h
  refine ⟨hlevel, hopen, fun new hnew => ?_⟩
  obtain ⟨-, new', htrace, hnoCs⟩ := step_command_events hb hm h
  rwa [← List.append_cancel_left (htrace.symm.trans hnew)]

/-! ## The scope law -/

/-- What each step keeps, every run keeps. -/
theorem runs_keep {P : State → Prop} (hstep : ∀ {s t}, P s → step s = .next t → P t) {n : Nat} (hs : P s)
    (h : runs n s = .next t) : P t := by
  induction n generalizing s with
  | zero => cases h; exact hs
  | succ n ih =>
    simp only [runs] at h
    split at h
    · next u hu => exact ih (hstep hs hu) h
    · cases h
    · cases h

/-- The trace of a WITH_CS_LOW after `before`: events that set no chip-select while the body runs, and after its end one attempt
to restore. The host offers nothing more. -/
def ScopeTrace (before : List Event) (s : State) : Prop :=
  s.host = [] ∧ ∃ inner : List Event, (∀ e ∈ inner, e.isCs = false)
    ∧ ((InBody s ∧ s.trace = before ++ inner) ∨ (s.busy = false ∧ ∃ ok, s.trace = before ++ inner ++ [.cs .high ok]))

theorem step_body_scopeTrace {before inner : List Event} (hh : s.host = []) (hnoCs : ∀ e ∈ inner, e.isCs = false)
    (hbody : InBody s) (htrace : s.trace = before ++ inner) (h : step s = .next t) : ScopeTrace before t := by
  have ⟨hb, ⟨rest, done, hop⟩, hpoint⟩ := hbody
  rcases hpoint with hm | ⟨e, hm⟩
  · have ⟨_, _, hkeep⟩ := step_keepsScope hb hm (by simp [State.notInit, hop]) h
    obtain ⟨hhost, new, hnew, hnoCs'⟩ := step_command_events hb hm h
    refine ⟨hhost.trans hh, inner ++ new, ?_, .inl ⟨hkeep hbody, by rw [hnew, htrace, List.append_assoc]⟩⟩
    intro x hx
    exact (List.mem_append.mp hx).elim (hnoCs x) (hnoCs' x)
  · cases ha : s.answers with
    | nil =>
      rw [step_of_pendingCall hb (call := .setCs .high) (by simp [pendingCall, hm]), ha] at h
      cases h
      exact ⟨hh, inner, hnoCs, .inl ⟨hbody, htrace⟩⟩
    | cons a l =>
      rw [step_restore hb hop hm ha] at h
      cases h
      refine ⟨?_, inner, hnoCs, .inr ⟨?_, !a.fault, ?_⟩⟩
      · split <;> exact hh
      · split <;> rfl
      · rw [← htrace]; split <;> rfl

theorem step_scopeTrace {before : List Event} (hs : ScopeTrace before s) (h : step s = .next t) : ScopeTrace before t := by
  have ⟨hh, inner, hnoCs, hpart⟩ := hs
  rcases hpart with ⟨hbody, htrace⟩ | ⟨hb, -⟩
  · exact step_body_scopeTrace hh hnoCs hbody htrace h
  · rw [step_idle hb hh] at h; cases h; exact hs

/-- Settles O26: the answer to the assertion brings the run into `ScopeTrace`, and there it stays (`step_scopeTrace`). -/
theorem scopeLaw : Obligations.ScopeLaw := by
  intro s u t body a rest n hh hf ha hexec hrun hend
  obtain ⟨elems, rfl⟩ := exec_withCsLow_next hexec
  cases n with
  | zero => cases hrun; cases hend
  | succ n =>
    rw [runs_step (step_beginScope ha hf)] at hrun
    have hout := nextElem_outside elems [] (s.asserted rest)
    have hbegin : ScopeTrace (s.trace ++ [.cs .low true]) (nextElem elems [] (s.asserted rest)) :=
      ⟨(congrArg Outside.host hout).trans hh, [], by simp,
        .inl ⟨nextElem_inBody _ _ rfl, (congrArg Outside.trace hout).trans (List.append_nil _).symm⟩⟩
    obtain ⟨-, inner, hnoCs, ⟨⟨hb, -⟩, -⟩ | ⟨-, ok, htrace⟩⟩ := runs_keep step_scopeTrace hbegin hrun
    · rw [hend] at hb; cases hb
    · exact ⟨inner, ok, htrace, hnoCs⟩

end Sys2Proof.Machine

/-! PROOFS. The outcomes of a standalone WAIT_READY and EXEC_CMD (43_bus_transaction.md R140 to R146). An answer that raises an
error does so in one step (`step_raisedBy`), so each failure is the run up to the failing call and that one step
(`runs_failed`). -/

namespace Sys2Proof.Machine

variable {s t : State}

/-! ## Errors -/

theorem event_xfer_fault {a : Answer} {out : Byte} (hf : a.fault = true) : (Call.xfer out).event a = .xfer out none := by
  simp [Call.event, hf]

theorem event_write_fault {a : Answer} {bytes : List Byte} (hf : a.fault = true) :
    (Call.write bytes).event a = .write bytes false := by
  simp [Call.event, hf]

/-- The failing call is recorded, and its error is raised. -/
theorem step_raisedBy {x : Answer} {e : Err} {call : Call} {rest : List Answer} (hb : s.busy = true) (hr : s.raisedBy x e)
    (hc : pendingCall s = some call) (ha : s.answers = x :: rest) :
    step s = raise e { s with answers := rest, trace := s.trace ++ [call.event x] } := by
  cases e with
  | busTransferFault =>
    obtain ⟨hm | hm | ⟨k, hm⟩, hf⟩ := hr <;> simp only [pendingCall, hm] at hc <;> cases hc
    · rw [step_readyXfer hb hm ha, if_pos hf, event_xfer_fault hf]
    · rw [step_pollXfer hb hm ha, if_pos hf, event_xfer_fault hf]
    · rw [step_extraXfer hb hm ha, if_pos hf, event_xfer_fault hf]
  | busWriteFault =>
    obtain ⟨hm, hf⟩ := hr
    simp only [pendingCall, hm] at hc
    cases hc
    rw [step_frameWrite hb hm ha, if_pos hf, event_write_fault hf]
  | readyTimeout =>
    obtain ⟨hm, hf, hbyte, hlast⟩ := hr
    simp only [pendingCall, hm] at hc
    cases hc
    have hbyte' : x.byte ≠ sentinel := hbyte
    rw [step_readyXfer hb hm ha]
    simp [hf, Call.event, readyByte, hbyte', hlast]
  | responseTimeout =>
    obtain ⟨hm, hf, hbyte, hlast⟩ := hr
    simp only [pendingCall, hm] at hc
    cases hc
    rw [step_pollXfer hb hm ha]
    simp [hf, Call.event, pollByte, sentinel, hbyte, pollAttempt, hlast]
  | chipSelectFault | commandRejected | unexpectedVoltage | checkPatternMismatch | cardUnusable => exact hr.elim

/-- A standalone operation ends with the error. -/
theorem raise_standalone (e : Err) (hop : s.op = .waitReady ∨ s.op = .execCmd) : raise e s = .next (s.failed e) := by
  rcases hop with hop | hop <;> simp only [raise, hop] <;> rfl

/-- In a body the error is taken to the restore. -/
theorem raise_body {body : List BodyElem} {results : List BodyResult} (e : Err) (hop : s.op = .withCsLow body results) :
    raise e s = .next { s with micro := .csHigh (some e) } := by
  simp only [raise, hop]

/-- A run up to a failing call of a standalone command, and the step that fails. -/
theorem runs_failed {m : Nat} {x : Answer} {e : Err} {call : Call} {event : Event} {trace : List Event} {rest : List Answer}
    (h : runs m s = .next t) (hb : t.busy = true) (hop : t.op = .waitReady ∨ t.op = .execCmd) (hr : t.raisedBy x e)
    (hc : pendingCall t = some call) (hev : call.event x = event) (ha : t.answers = x :: rest)
    (htrace : t.trace ++ [event] = trace) :
    runs (m + 1) s = .next ({ t with answers := rest, trace }.failed e) := by
  rw [runs_then h, runs_single, step_raisedBy hb hr hc ha, hev, htrace]
  exact raise_standalone (s := { t with answers := rest, trace }) e hop

/-! ## WAIT_READY -/

/-- From the first exchange of the wait to the one after the misses. -/
theorem runs_missed {misses : List (Byte × Answer)} {rest : List Answer} (hb : s.busy = true) (hm : s.micro = .readyXfer)
    (hr : s.readyCnt = 1) (hmiss : ∀ m ∈ misses, m.1 ≠ 0xFF) (hlen : misses.length < s.params.nReady)
    (ha : s.answers = missAnswers misses ++ rest) :
    runs (2 * misses.length) s = .next { s with
      readyCnt := misses.length + 1, answers := rest, trace := s.trace ++ missEvents s.params misses } := by
  rw [runs_misses misses s rest hb hm ha hmiss (by omega), hr, Nat.add_comm 1]

/-- A plain WAIT_READY at its first exchange. -/
def beginStandaloneWait (s : State) : State := beginWaitReady { s with busy := true, op := .waitReady }

/-- Settles O20: after the misses the wait ends with the sentinel (`step_ready`), or it fails (`runs_failed`). -/
theorem waitReadyLaw : Obligations.WaitReadyLaw := by
  intro s misses rest hmiss hlen
  have hexec : exec .waitReady s = .next (beginStandaloneWait s) := rfl
  have missed {l : List Answer} (ha : s.answers = missAnswers misses ++ l) :=
    runs_missed (s := beginStandaloneWait s) rfl rfl rfl hmiss hlen ha
  refine ⟨fun ha => ⟨_, hexec, ?_⟩, fun b hb hlast ha => ⟨_, hexec, ?_⟩, fun a hf ha => ⟨_, hexec, ?_⟩⟩
  · exact runs_then_step (missed ha) (step_ready rfl rfl rfl)
  · rw [← hlast]
    exact runs_failed (missed ha) rfl (.inl rfl) (e := .readyTimeout) ⟨rfl, rfl, hb, hlast⟩ rfl rfl rfl rfl
  · exact runs_failed (missed ha) rfl (.inl rfl) (e := .busTransferFault) ⟨.inl rfl, hf⟩ rfl (event_xfer_fault hf) rfl rfl

/-! ## EXEC_CMD -/

/-- A standalone EXEC_CMD at its first exchange. -/
def beginStandaloneCmd (index : Index) (arg : Word) (sh : Shape) (s : State) : State :=
  beginExecCmd index arg sh { s with busy := true, op := .execCmd }

theorem exec_execCmd (index : Index) (arg : Word) (sh : Shape) (s : State) :
    exec (.execCmd index arg sh.code) s = .next (beginStandaloneCmd index arg sh s) := by
  simp only [exec, execExecCmd, shapeOfCode_code]
  rfl

/-- Settles O21: the run to the validation (`runs_validated`), whose error or result ends a standalone EXEC_CMD. -/
theorem execCmdCollectsTheResponse : Obligations.ExecCmdCollectsTheResponse := by
  intro s index arg sh misses w polls st q rest hmiss hlen hw hpolls hst ha
  refine ⟨_, exec_execCmd index arg sh s, ?_⟩
  have hsteps : 2 * misses.length + polls + 5 + (if readsExtra sh st then 4 else 0)
      = commandSteps misses polls sh st + 1 := by
    unfold commandSteps
    omega
  rw [hsteps, runs_validated (sh := sh) (beginStandaloneCmd index arg sh s) rfl rfl rfl rfl rfl ha hw hmiss hlen hpolls hst]
  cases statusError st with
  | none => rfl
  | some k => rfl

/-- The frame is issued once the card is ready. -/
theorem runs_frameIssued {index : Index} {arg : Word} {misses : List (Byte × Answer)} {rest : List Answer}
    (hb : s.busy = true) (hm : s.micro = .readyXfer) (hr : s.readyCnt = 1) (hc : s.cmd = some ⟨index, arg⟩)
    (hmiss : ∀ m ∈ misses, m.1 ≠ 0xFF) (hlen : misses.length < s.params.nReady)
    (ha : s.answers = missAnswers misses ++ Answer.byteOf 0xFF :: rest) :
    runs (2 * misses.length + 2) s = .next (sendCommand index arg { s with
      readyCnt := misses.length + 1, answers := rest
      trace := s.trace ++ missEvents s.params misses ++ [.xfer s.params.placeholder (some 0xFF)] }) := by
  have hready := runs_then_step (runs_missed hb hm hr hmiss hlen ha) (step_ready hb hm rfl)
  simp only [readyOk, hc] at hready
  exact runs_then_step hready (step_sendFrame (c := ⟨index, arg⟩) hb rfl rfl)

/-- The first bytes of an echo put in their places. -/
def putFirst (bs : List Byte) (q : Quad) : Quad :=
  ⟨bs[0]?.getD q.e0, bs[1]?.getD q.e1, bs[2]?.getD q.e2, bs[3]?.getD q.e3⟩

theorem putFirst_snoc (q : Quad) (bs : List Byte) (b : Byte) (h : bs.length < 4) :
    putFirst (bs ++ [b]) q = (putFirst bs q).set ⟨bs.length, h⟩ b := by
  match bs, h with
  | [], _ | [_], _ | [_, _], _ | [_, _, _], _ => rfl

/-- Extra bytes, but not the last of them. -/
theorem runs_extraBytes {bs : List Byte} {rest : List Answer} (hb : s.busy = true) (hm : s.micro = .extraXfer 0)
    (ha : s.answers = bs.map Answer.byteOf ++ rest) (hlen : bs.length < 4) :
    runs bs.length s = .next { s with
      extra := putFirst bs s.extra, micro := .extraXfer ⟨bs.length, hlen⟩, answers := rest
      trace := s.trace ++ bs.map fun b => .xfer s.params.placeholder (some b) } := by
  induction bs using List.reverseRecOn generalizing rest with
  | nil =>
    have ha' : rest = s.answers := ha.symm
    simp [putFirst, ← hm, ha']
  | append_singleton bs b ih =>
    have hlast : bs.length + 1 < 4 := by simpa using hlen
    have hbs := ih (rest := .byteOf b :: rest) (by simpa using ha) (by omega)
    have hbyte := step_extraByte (b := b) (rest := rest) (k := ⟨bs.length, by omega⟩)
      (s := { s with
        extra := putFirst bs s.extra, micro := .extraXfer ⟨bs.length, by omega⟩, answers := .byteOf b :: rest
        trace := s.trace ++ bs.map fun b => .xfer s.params.placeholder (some b) }) hb rfl rfl
    simp only [List.length_append, List.length_singleton]
    rw [runs_then_step hbs hbyte]
    simp [extraByte, hlast, putFirst_snoc _ _ _ (show bs.length < 4 by omega)]

/-- The poll after some sentinels. -/
theorem runs_polling {index : Index} {arg : Word} {misses : List (Byte × Answer)} {w : Answer} {polls : Nat}
    {rest : List Answer} (hb : s.busy = true) (hm : s.micro = .readyXfer) (hr : s.readyCnt = 1)
    (hc : s.cmd = some ⟨index, arg⟩) (hmiss : ∀ m ∈ misses, m.1 ≠ 0xFF) (hlen : misses.length < s.params.nReady)
    (hw : w.fault = false) (hp : polls < s.params.nResp)
    (ha : s.answers = missAnswers misses ++ Answer.byteOf 0xFF :: w :: (List.replicate polls (Answer.byteOf 0xFF) ++ rest)) :
    runs (2 * misses.length + 3 + polls) s = .next { s with
      readyCnt := misses.length + 1, errCode := none, frame := frameOf index arg, crc := frameCrc index arg
      respCnt := polls + 1, micro := .pollXfer, answers := rest
      trace := s.trace ++ missEvents s.params misses ++
        [.xfer s.params.placeholder (some 0xFF), .write (frameOf index arg).toList true] ++
        List.replicate polls (.xfer s.params.placeholder (some 0xFF)) } := by
  rw [runs_then (runs_sent s hb hm hr hc ha hw hmiss hlen (by omega)),
    runs_sentinels polls _ rest (by exact hb) rfl rfl (by dsimp only; omega), Nat.add_comm 1]

/-- The status byte after some sentinels, where four extra bytes follow it. -/
theorem step_statusByte {st : Byte} {rest : List Answer} (hb : s.busy = true) (hm : s.micro = .pollXfer) (hst : st ≠ 0xFF)
    (hx : readsExtra s.shape st = true) (ha : s.answers = .byteOf st :: rest) :
    step s = .next { s with
      status := st, micro := .extraXfer 0, answers := rest
      trace := s.trace ++ [.xfer s.params.placeholder (some st)] } := by
  rw [step_pollXfer hb hm ha]
  refine (pollByte_status (b := st) hst).trans ?_
  simp [statusByte, hx, Answer.byteOf]

/-- Settles O22: the run to the call that fails, and the step that fails (`runs_failed`). -/
theorem execCmdStopsAtTheFirstFailure : Obligations.ExecCmdStopsAtTheFirstFailure := by
  intro s index arg sh misses rest hmiss hlen hresp waited sent before ready frame
  have hexec := exec_execCmd index arg sh s
  have missed {l : List Answer} (ha : s.answers = missAnswers misses ++ l) :=
    runs_missed (s := beginStandaloneCmd index arg sh s) rfl rfl rfl hmiss hlen ha
  have polling {w : Answer} {polls : Nat} {l : List Answer} (hw : w.fault = false) (hp : polls < s.params.nResp) (ha) :=
    runs_polling (s := beginStandaloneCmd index arg sh s) (w := w) (polls := polls) (rest := l)
      rfl rfl rfl rfl hmiss hlen hw hp ha
  refine ⟨?readyTimeout, ?readyFault, ?writeFault, ?responseTimeout, ?pollFault, ?extraFault⟩
  case readyTimeout =>
    intro b hb hlast ha
    have hfail := runs_failed (missed ha) rfl (.inr rfl) (e := .readyTimeout) ⟨rfl, rfl, hb, hlast⟩ rfl rfl rfl rfl
    exact ⟨_, hexec, hfail⟩
  case readyFault =>
    intro a hf ha
    have hfail := runs_failed (missed ha) rfl (.inr rfl) (e := .busTransferFault) ⟨.inl rfl, hf⟩ rfl
      (event_xfer_fault hf) rfl rfl
    exact ⟨_, hexec, hfail⟩
  case writeFault =>
    intro w hf ha
    have issued := runs_frameIssued (s := beginStandaloneCmd index arg sh s) rfl rfl rfl rfl hmiss hlen ha
    have htrace : before ++ [ready] ++ [.write frame false] = before ++ [ready, .write frame false] := List.append_assoc _ _ _
    have hfail := runs_failed issued rfl (.inr rfl) (e := .busWriteFault) ⟨rfl, hf⟩ rfl (event_write_fault hf) rfl htrace
    exact ⟨_, hexec, hfail⟩
  case responseTimeout =>
    intro w hw ha
    obtain ⟨polls, hpolls⟩ : ∃ polls, s.params.nResp = polls + 1 := ⟨s.params.nResp - 1, by omega⟩
    have htrace (sent : List Event) :
        sent ++ List.replicate polls ready ++ [ready] = sent ++ List.replicate (polls + 1) ready := by
      rw [List.replicate_succ', List.append_assoc]
    rw [hpolls, List.replicate_succ', List.append_assoc] at ha
    rw [hpolls]
    have hfail := runs_failed (polling hw (by omega) ha) rfl (.inr rfl) (e := .responseTimeout)
      ⟨rfl, rfl, rfl, hpolls.symm⟩ rfl rfl rfl (htrace _)
    exact ⟨_, hexec, hfail⟩
  case pollFault =>
    intro w a polls hw hf hp ha
    have hsteps : 2 * misses.length + 4 + polls = 2 * misses.length + 3 + polls + 1 := by omega
    rw [hsteps]
    have hfail := runs_failed (polling hw hp ha) rfl (.inr rfl) (e := .busTransferFault) ⟨.inr (.inl rfl), hf⟩ rfl
      (event_xfer_fault hf) rfl rfl
    exact ⟨_, hexec, hfail⟩
  case extraFault =>
    intro w a polls st bs hw hf hp hst hx hbs ha
    have hstatus := runs_then_step (polling hw hp ha) (step_statusByte rfl rfl hst hx rfl)
    have hextra := (runs_then hstatus).trans (runs_extraBytes (bs := bs) rfl rfl rfl hbs)
    have hsteps : 2 * misses.length + 5 + polls + bs.length = 2 * misses.length + 3 + polls + 1 + bs.length + 1 := by omega
    have hlast : bs[3]?.getD s.extra.e3 = s.extra.e3 := by rw [List.getElem?_eq_none (by omega)]; rfl
    rw [hsteps, ← hlast]
    have hfail := runs_failed hextra rfl (.inr rfl) (e := .busTransferFault) ⟨.inr (.inr ⟨_, rfl⟩), hf⟩ rfl
      (event_xfer_fault hf) rfl rfl
    exact ⟨_, hexec, hfail⟩

end Sys2Proof.Machine

/-! PROOFS. The frame and the response rows as EXEC_CMD answers them (43_bus_transaction.md R142 to R145), the bodies of
WITH_CS_LOW (R149, R150), and the scopes of INIT (44_init_fsm.md R161). A body is run element by element
(`runs_bodyStep`, `runs_bodySteps`), between the two calls of its scope. -/

namespace Sys2Proof.Machine

variable {s t : State}

/-! ## The answers to the frame write and the rows of a response -/

/-- Settles O30: a faulted write is raised (`step_raisedBy`); a successful one starts the poll, whose first attempt is within
its bound. -/
theorem frameWriteIsAnswered : Obligations.FrameWriteIsAnswered := by
  intro s f a rest hb hm hframe ha hresp event done
  subst hframe
  have hc : pendingCall s = some (.write s.frame.toList) := by simp only [pendingCall, hm]
  have hraise (hf : a.fault = true) : step s = raise .busWriteFault done :=
    step_raisedBy (e := .busWriteFault) hb ⟨hm, hf⟩ hc ha
  refine ⟨hc, fun hf => ?_, fun hf hop => ?_, fun hf body results hop => ?_⟩
  · have hfirst : ¬ 0 = s.params.nResp := by omega
    rw [step_frameWrite hb hm ha, hf, if_neg Bool.false_ne_true]
    simp only [startPoll, pollAttempt, hfirst, if_false, event, done, hf]
    rfl
  · rw [hraise hf]; exact raise_standalone (s := done) _ (.inr hop)
  · rw [hraise hf]; exact raise_body (s := done) _ hop

theorem cmdOk_standalone (r : CmdResult) (hop : s.op = .execCmd) : cmdOk r s = .next (s.returned (.cmd r)) := by
  simp only [cmdOk, hop]
  rfl

theorem cmdOk_body {body : List BodyElem} {results : List BodyResult} (r : CmdResult) (hop : s.op = .withCsLow body results) :
    cmdOk r s = .next (nextElem body (results ++ [.cmd r]) s) := by
  simp only [cmdOk, hop]

/-- What a response leaves in `status` and `extra`. -/
def State.gotResponse (s : State) (st : Byte) (echo : Option Quad) : State :=
  { s with status := st, extra := echo.getD s.extra }

theorem respond_ok {st : Byte} (echo : Option Quad) (hst : st ≠ 0xFF) (hok : errorBits st = 0) :
    respond st echo s = cmdOk ⟨st, echo⟩ { s.gotResponse st echo with errCode := none } := by
  have hnone := statusError_eq_none.mpr hok
  have hst' : st ≠ sentinel := hst
  simp [respond, hst', not_truncated_of_no_error hnone, receive, hnone, State.gotResponse]

theorem respond_rejected {st : Byte} {k : RejectKind} (echo : Option Quad) (hst : st ≠ 0xFF) (hk : statusError st = some k) :
    respond st echo s =
      raise (.commandRejected k) (s.gotResponse st (if isTruncated st then none else echo)) := by
  have hst' : st ≠ sentinel := hst
  simp [respond, hst', receive, hk, State.gotResponse]

/-- Settles O31: the rows are `respond` with no echo or with the word's four bytes. -/
theorem responseRowsAreReceived : Obligations.ResponseRowsAreReceived := by
  intro s st word q short long
  refine ⟨fun hop hst hok => ?_, fun hop hst k hk => ?_, fun results hop hst hok => ?_, fun hmore hst => ?_⟩
  · have received (echo : Option Quad) : respond st echo s = .next ((s.gotResponse st echo).returned (.cmd ⟨st, echo⟩)) :=
      (respond_ok echo hst hok).trans (cmdOk_standalone _ hop)
    exact ⟨received none, received (some q), received (some q)⟩
  · have rejected (echo : Option Quad) : respond st echo s =
        .next ((s.gotResponse st (if isTruncated st then none else echo)).failed (.commandRejected k)) :=
      (respond_rejected echo hst hk).trans (raise_standalone _ (.inr hop))
    refine ⟨?_, fun htrunc => ?_, fun hwhole => ?_⟩
    · exact (rejected none).trans (by rw [ite_self]; rfl)
    · have hshort := rejected (some q)
      rw [if_pos htrunc] at hshort
      exact ⟨hshort, hshort⟩
    · have hlong := rejected (some q)
      rw [hwhole] at hlong
      exact ⟨hlong, hlong⟩
  · have received (echo : Option Quad) : respond st echo s =
        .next (nextElem [] (results ++ [.cmd ⟨st, echo⟩]) { s.gotResponse st echo with errCode := none }) :=
      (respond_ok echo hst hok).trans (cmdOk_body _ hop)
    exact ⟨received none, received (some q), received (some q)⟩
  · have polled (echo : Option Quad) : respond st echo s = .next { s with respCnt := s.respCnt + 1, micro := .pollXfer } := by
      simp [respond, hst, sentinel, pollAttempt, hmore]
    exact ⟨polled none, polled _, polled _⟩

/-! ## Bodies -/

/-- The element as the sequencer runs it. -/
def BodyStep.elem : BodyStep → BodyElem
  | .ready _ => .waitReady
  | .cmd index arg shape _ _ => .execCmd index arg shape

/-- A body that begins with these elements. -/
theorem resolveBody_steps (steps : List BodyStep) {more : List BodyOp} {elems : List BodyElem}
    (h : resolveBody more = some elems) :
    resolveBody (steps.map BodyStep.op ++ more) = some (steps.map BodyStep.elem ++ elems) := by
  induction steps with
  | nil => exact h
  | cons b steps ih => cases b <;> simp [BodyStep.op, BodyStep.elem, resolveBody, ih]

/-- From `s` to `t` the body of a scope has run on, with these events, up to these answers; what INIT alone writes, the request
port and the response port are as they were. -/
structure RanOn (s t : State) (events : List Event) (rest : List Answer) : Prop where
  busy : t.busy = true
  trace : t.trace = s.trace ++ events
  answers : t.answers = rest
  rsp : t.rsp = s.rsp
  keepsInit : s.keepsInit t

theorem RanOn.params {events : List Event} {rest : List Answer} (h : RanOn s t events rest) : t.params = s.params :=
  h.keepsInit.1

theorem keepsInit_refl (s : State) : s.keepsInit s := ⟨rfl, rfl, rfl, rfl, rfl, rfl, rfl, rfl, rfl, rfl⟩

theorem keepsInit_trans {u : State} (h : s.keepsInit t) (h' : t.keepsInit u) : s.keepsInit u := by
  simp_all [State.keepsInit]

theorem RanOn.trans {u : State} {events events' : List Event} {rest rest' : List Answer} (h : RanOn s t events rest)
    (h' : RanOn t u events' rest') : RanOn s u (events ++ events') rest' :=
  ⟨h'.busy, by rw [h'.trace, h.trace, List.append_assoc], h'.answers, h'.rsp.trans h.rsp,
    keepsInit_trans h.keepsInit h'.keepsInit⟩

/-- An EXEC_CMD of a body runs to its validation. -/
theorem runs_bodyCmd {index : Index} {arg : Word} {sh : Shape} {r : Reply} {q : Quad} {rest : List Answer}
    (body : List BodyElem) (done : List BodyResult) (hb : s.busy = true) (hr : r.arrives s.params)
    (ha : s.answers = r.answers (echoOf sh r.status q) ++ rest) :
    ∃ n t, runs n (nextElem (.execCmd index arg sh :: body) done s) = (match statusError r.status with
          | some k => raise (.commandRejected k) t
          | none => cmdOk ⟨r.status, echoOf sh r.status q⟩ t)
      ∧ t.op = .withCsLow body done ∧ t.status = r.status
      ∧ RanOn s t (Reply.events s.params index arg r (echoOf sh r.status q)) rest := by
  obtain ⟨hmiss, hlen, hw, hpolls, hst⟩ := hr
  have hrun := runs_validated (sh := sh) (nextElem (.execCmd index arg sh :: body) done s)
    hb rfl rfl rfl rfl ha hw hmiss hlen hpolls hst
  exact ⟨_, _, hrun, rfl, rfl, hb, rfl, rfl, rfl, (keepsInit_refl s :)⟩

/-- An element that succeeds. -/
theorem runs_bodyStep {b : BodyStep} {rest : List Answer} (body : List BodyElem) (done : List BodyResult) (hb : s.busy = true)
    (hg : b.good s.params) (ha : s.answers = b.answers ++ rest) :
    ∃ n t, runs n (nextElem (b.elem :: body) done s) = .next (nextElem body (done ++ [b.result]) t)
      ∧ RanOn s t (b.events s.params) rest := by
  cases b with
  | ready misses =>
    obtain ⟨hmiss, hlen⟩ := hg
    have hrun := runs_then_step (runs_missed (s := nextElem (.waitReady :: body) done s) hb rfl rfl hmiss hlen
      (rest := .byteOf 0xFF :: rest) (ha.trans (List.append_assoc _ _ _))) (step_ready hb rfl rfl)
    rw [readyOk_body rfl rfl] at hrun
    exact ⟨_, _, hrun, hb, List.append_assoc _ _ _, rfl, rfl, (keepsInit_refl s :)⟩
  | cmd index arg sh r q =>
    obtain ⟨harrives, hok⟩ := hg
    obtain ⟨n, t, hrun, hop, -, hran⟩ := runs_bodyCmd body done hb harrives ha
    rw [statusError_eq_none.mpr hok] at hrun
    exact ⟨n, t, hrun.trans (cmdOk_body _ hop), hran⟩

/-- Elements that succeed, whatever comes after them. -/
theorem runs_bodySteps {steps : List BodyStep} {rest : List Answer} (body : List BodyElem) (done : List BodyResult)
    (hb : s.busy = true) (hg : ∀ b ∈ steps, b.good s.params) (ha : s.answers = steps.flatMap BodyStep.answers ++ rest) :
    ∃ n t, runs n (nextElem (steps.map BodyStep.elem ++ body) done s)
          = .next (nextElem body (done ++ steps.map BodyStep.result) t)
      ∧ RanOn s t (steps.flatMap (BodyStep.events s.params)) rest := by
  induction steps generalizing s done with
  | nil => exact ⟨0, s, by simp, hb, by simp, ha, rfl, keepsInit_refl s⟩
  | cons b steps ih =>
    rw [List.flatMap_cons, List.append_assoc] at ha
    obtain ⟨n, t, hrun, hran⟩ := runs_bodyStep (steps.map BodyStep.elem ++ body) done hb (hg b (by simp)) ha
    obtain ⟨n', t', hrun', hran'⟩ := ih (done ++ [b.result]) hran.busy
      (fun b' hb' => hran.params ▸ hg b' (by simp [hb'])) hran.answers
    rw [hran.params] at hran'
    exact ⟨n + n', t', by simpa using (runs_then hrun).trans hrun', by simpa using hran.trans hran'⟩

/-- A WITH_CS_LOW whose first elements succeed comes to what follows them. -/
theorem runs_scopeSteps {steps : List BodyStep} {rest : List Answer} (body : List BodyElem)
    (hg : ∀ b ∈ steps, b.good s.params) (ha : s.answers = Answer.done :: (steps.flatMap BodyStep.answers ++ rest)) :
    ∃ n t, runs n (beginScope (steps.map BodyStep.elem ++ body) s) = .next (nextElem body (steps.map BodyStep.result) t)
      ∧ RanOn s t (.cs .low true :: steps.flatMap (BodyStep.events s.params)) rest := by
  have hbegin : RanOn s (s.asserted (steps.flatMap BodyStep.answers ++ rest)) [.cs .low true] _ :=
    ⟨rfl, rfl, rfl, rfl, (keepsInit_refl s :)⟩
  obtain ⟨n, t, hrun, hran⟩ := runs_bodySteps (s := s.asserted _) body [] rfl hg rfl
  exact ⟨n + 1, t, (runs_step (step_beginScope ha rfl) n).trans hrun, hbegin.trans hran⟩

/-- Settles O23: the elements run (`runs_scopeSteps`), and the restore after the last of them hands on the results or its own
fault (`step_restore`). -/
theorem withCsLowRunsItsBody : Obligations.WithCsLowRunsItsBody := by
  intro s steps a rest hg ha
  have hresolve : resolveBody (steps.map BodyStep.op) = some (steps.map BodyStep.elem) := by
    simpa using resolveBody_steps steps (more := []) rfl
  obtain ⟨n, t, hrun, hran⟩ := runs_scopeSteps (s := s) (rest := a :: rest) [] hg (by simpa using ha)
  rw [List.append_nil] at hrun
  have hstep := step_restore (s := nextElem [] (steps.map BodyStep.result) t) hran.busy rfl rfl hran.answers
  have htrace : t.trace ++ [Event.cs .high (!a.fault)]
      = s.trace ++ [.cs .low true] ++ steps.flatMap (BodyStep.events s.params) ++ [.cs .high (!a.fault)] := by
    simp [hran.trace]
  have hrsp (r : Response) : t.rsp ++ [r] = s.rsp ++ [r] := by rw [hran.rsp]
  rcases Bool.eq_false_or_eq_true a.fault with hf | hf <;> rw [hf] at hstep
  · exact ⟨_, _, n + 1, exec_withCsLow hresolve, runs_then_step hrun hstep, htrace, rfl, rfl, rfl, hran.keepsInit,
      by simp [hf], fun _ => ⟨if_pos hf, rfl, hrsp _⟩⟩
  · exact ⟨_, _, n + 1, exec_withCsLow hresolve, runs_then_step hrun hstep, htrace, rfl, rfl, rfl, hran.keepsInit,
      fun _ => ⟨if_neg (by simp [hf]), rfl, hrsp _⟩, by simp [hf]⟩

/-- Settles O25: a status byte's error leads to the restore as any raised one does (`raise_body`), and the restore hands on the
error in flight whatever its answer (`step_restore`). -/
theorem withCsLowBodyErrorWins : Obligations.WithCsLowBodyErrorWins := by
  have restored {s : State} {body : List BodyElem} {results : List BodyResult} {e : Err} {a : Answer} {rest : List Answer}
      (hb : s.busy = true) (hop : s.op = .withCsLow body results) (hm : s.micro = .csHigh (some e))
      (ha : s.answers = a :: rest) : step s = .next ((s.restored a rest).failed e) := step_restore hb hop hm ha
  refine ⟨?wholeRun, ?anyCall, fun s body results e a rest => restored⟩
  case wholeRun =>
    intro s steps index arg sh r q k more a rest hg hr hk hwf ha
    obtain ⟨elems, helems⟩ := resolveBody_of_wf hwf
    have hresolve := resolveBody_steps steps (more := .execCmd index arg sh.code :: more)
      (elems := .execCmd index arg sh :: elems) (by simp [resolveBody, helems])
    obtain ⟨n, t, hrun, hran⟩ := runs_scopeSteps (s := s) (rest := r.answers (echoOf sh r.status q) ++ a :: rest)
      (.execCmd index arg sh :: elems) hg (by simpa using ha)
    obtain ⟨n', t', hrun', hop, hstatus, hran'⟩ := runs_bodyCmd (index := index) (arg := arg) elems
      (steps.map BodyStep.result) hran.busy (hran.params ▸ hr) hran.answers
    rw [hk] at hrun'
    have hraise := (runs_then hrun).trans (hrun'.trans (raise_body _ hop))
    have hstep := restored (s := { t' with micro := .csHigh (some (.commandRejected k)) }) hran'.busy hop rfl hran'.answers
    have hall := hran.trans hran'
    rw [hran.params] at hall
    refine ⟨_, _, n + n' + 1, exec_withCsLow hresolve, runs_then_step hraise hstep, ?_, rfl, rfl, rfl,
      hall.keepsInit, hstatus, rfl, rfl, ?_⟩
    · simp [State.restored, State.failed, hall.trace]
    · simp [State.restored, State.failed, hall.rsp]
  case anyCall =>
    intro s body results e call x a rest hb hop hr hc ha
    have hraise := (step_raisedBy hb hr hc ha).trans
      (raise_body (s := { s with answers := a :: rest, trace := s.trace ++ [call.event x] }) e hop)
    refine (runs_step hraise 1).trans ((runs_one (restored (by exact hb) (by exact hop) rfl rfl)).trans ?_)
    simp [State.restored, State.failed]

/-! ## The scopes of INIT -/

/-- A fault of chip-select, which no stage catches, leaves the stage, and with no scope open it is the abort. -/
theorem stageErr_chipSelectFault (c : InitCmd) (ho : s.scopeOpen = false) :
    stageErr c .chipSelectFault s = .next (s.aborted .chipSelectFault) := by
  simp only [stageErr, reduceCtorEq, and_false, if_false, initRaise, ho]
  rfl

/-- Settles O58: the invariant has the stage of the scope, which is not open after the fault, and so nothing is unwound. -/
theorem scopeFaultsEndInit : Obligations.ScopeFaultsEndInit := by
  intro s c a rest hi hb hop hf ha stage
  have hr := hi.running hb
  simp only [Running, hop] at hr
  obtain ⟨hpoint, -⟩ := hr
  refine ⟨fun hm => ?_, fun hm => ?_⟩
  · simp only [InitPoint, hm] at hpoint
    obtain ⟨hopen, -, hstage⟩ := hpoint
    rw [step_csLow hb hm ha, hf]
    cases hscope : s.params.csScope <;> simp only [hscope] at hstage
    · simp only [stage, hscope, csLowAnswered, hop, initRaise, hopen, if_true]
      exact ⟨hstage.2, rfl⟩
    · simp only [stage, hscope, csLowAnswered, hop, if_true]
      exact ⟨hstage, stageErr_chipSelectFault c hopen⟩
  · simp only [InitPoint, hm] at hpoint
    obtain ⟨-, -, hstage⟩ := hpoint
    rw [step_csHigh hb hm ha, hf]
    cases hscope : s.params.csScope <;> simp only [hscope] at hstage
    · simp only [stage, hscope, csHighAnswered, hop, scopeError, if_true]
      exact ⟨(hstage.2.2 trivial).1, rfl⟩
    · simp only [stage, hscope, csHighAnswered, hop, scopeError, if_true]
      exact ⟨hstage.1, stageErr_chipSelectFault c rfl⟩

end Sys2Proof.Machine

/-! PROOFS. The stages of INIT, one equation for each (44_init_fsm.md R161 to R185): `InitCmd.start` is the state in which a
stage has started its command, and the answer of every stage to the end of its command is said with it. After them what opens
and closes a handshake: PowerUp (R162, R163) and the Ready actions (R182). -/

namespace Sys2Proof.Machine

variable {s t : State} {c : InitCmd}

/-! ## A command of INIT is started -/

/-- INIT at the first call of its command: under `WholeHandshake` the first exchange, under `PerCommand` the assertion. -/
def InitCmd.start (c : InitCmd) (s : State) : State :=
  match s.params.csScope with
  | .wholeHandshake => beginExecCmd (c.index s.params) (c.arg s.params s.version) c.shape { s with op := .init c }
  | .perCommand => { s with op := .init c, micro := .csLow }

theorem InitCmd.start_whole (h : s.params.csScope = .wholeHandshake) : c.start s =
    beginExecCmd (c.index s.params) (c.arg s.params s.version) c.shape { s with op := .init c } := by
  simp only [InitCmd.start, h]

theorem InitCmd.start_per (h : s.params.csScope = .perCommand) : c.start s = { s with op := .init c, micro := .csLow } := by
  simp only [InitCmd.start, h]

/-- Where `version` is what the command needs, the read of its operands finds them. -/
theorem runCmd_eq (hv : c.versionOk s.version) :
    runCmd c s = .next (beginExecCmd (c.index s.params) (c.arg s.params s.version) c.shape s) := by
  have hsome : (initOperands c s).isSome = true := by
    cases c
    case sdSendOpCond => simpa [initOperands, InitCmd.versionOk] using hv
    all_goals rfl
  obtain ⟨⟨index, arg, shape⟩, heq⟩ := Option.isSome_iff_exists.mp hsome
  obtain ⟨rfl, rfl, rfl⟩ := initOperands_eq heq
  simp only [runCmd, heq, readClass_some]

theorem startCmd_eq (hv : c.versionOk s.version) : startCmd c s = .next (c.start s) := by
  unfold startCmd
  split
  · next hs => rw [runCmd_eq (s := { s with op := .init c }) hv, InitCmd.start_whole hs]
  · next hs => rw [InitCmd.start_per hs]

/-- What a started command leaves is all but the point of INIT and the operands. -/
theorem InitCmd.start_eq (c : InitCmd) (s : State) : ∃ micro shape readyCnt cmd, c.start s = { s with
    op := .init c, micro := micro, shape := shape, readyCnt := readyCnt, cmd := cmd } := by
  cases hs : s.params.csScope
  · exact ⟨_, _, _, _, InitCmd.start_whole hs⟩
  · exact ⟨_, _, _, _, InitCmd.start_per hs⟩

@[simp] theorem InitCmd.start_op (c : InitCmd) (s : State) : (c.start s).op = .init c := by
  obtain ⟨_, _, _, _, h⟩ := c.start_eq s; rw [h]
@[simp] theorem InitCmd.start_busy (c : InitCmd) (s : State) : (c.start s).busy = s.busy := by
  obtain ⟨_, _, _, _, h⟩ := c.start_eq s; rw [h]
@[simp] theorem InitCmd.start_handshake (c : InitCmd) (s : State) : (c.start s).handshake = s.handshake := by
  obtain ⟨_, _, _, _, h⟩ := c.start_eq s; rw [h]; rfl
@[simp] theorem InitCmd.start_outside (c : InitCmd) (s : State) : (c.start s).outside = s.outside := by
  obtain ⟨_, _, _, _, h⟩ := c.start_eq s; rw [h]; rfl
@[simp] theorem InitCmd.start_state (c : InitCmd) (s : State) : (c.start s).state = s.state :=
  congrArg Handshake.state (c.start_handshake s)
@[simp] theorem InitCmd.start_vpCnt (c : InitCmd) (s : State) : (c.start s).vpCnt = s.vpCnt :=
  congrArg Handshake.vpCnt (c.start_handshake s)
@[simp] theorem InitCmd.start_ocCnt (c : InitCmd) (s : State) : (c.start s).ocCnt = s.ocCnt :=
  congrArg Handshake.ocCnt (c.start_handshake s)
@[simp] theorem InitCmd.start_version (c : InitCmd) (s : State) : (c.start s).version = s.version :=
  congrArg Handshake.version (c.start_handshake s)
@[simp] theorem InitCmd.start_params (c : InitCmd) (s : State) : (c.start s).params = s.params :=
  congrArg Outside.params (c.start_outside s)
@[simp] theorem InitCmd.start_errCode (c : InitCmd) (s : State) : (c.start s).errCode = s.errCode := by
  obtain ⟨_, _, _, _, h⟩ := c.start_eq s; rw [h]
@[simp] theorem InitCmd.start_status (c : InitCmd) (s : State) : (c.start s).status = s.status := by
  obtain ⟨_, _, _, _, h⟩ := c.start_eq s; rw [h]
@[simp] theorem InitCmd.start_extra (c : InitCmd) (s : State) : (c.start s).extra = s.extra := by
  obtain ⟨_, _, _, _, h⟩ := c.start_eq s; rw [h]

/-! ## The stages -/

/-- VersionProbe makes its first attempt, for there is one at least (R6). -/
theorem enterVersionProbe_eq (hp : s.params.wf = true) (hv : s.version = none) :
    enterVersionProbe s = .next (InitCmd.sendIfCond.start { s with state := .versionProbe, vpCnt := 1 }) := by
  have bounds := wf_bounds hp
  have hleft : 0 ≠ s.params.nVp := by omega
  simp only [enterVersionProbe, versionAttempt, hleft, if_false]
  exact startCmd_eq hv

theorem versionAttempt_eq (hleft : s.vpCnt ≠ s.params.nVp) (hv : s.version = none) :
    versionAttempt s = .next (InitCmd.sendIfCond.start { s with vpCnt := s.vpCnt + 1 }) := by
  simp only [versionAttempt, hleft, if_false]
  exact startCmd_eq hv

theorem versionAttempt_last (hlast : s.vpCnt = s.params.nVp) : versionAttempt s = .next (initRaise .cardUnusable s) := by
  simp only [versionAttempt, hlast, if_true]

theorem enterCrcEnable_eq (v : CardVersion) (s : State) : enterCrcEnable v s =
    .next (InitCmd.crcOnOff.start { s with version := some v, state := .crcEnable }) :=
  startCmd_eq (by simp [InitCmd.versionOk])

/-- OpCondWait makes its first iteration, for there is one at least (R6). -/
theorem enterOpCondWait_eq (hp : s.params.wf = true) (hv : s.version.isSome = true) :
    enterOpCondWait s = .next (InitCmd.appCmd.start { s with state := .opCondWait, ocCnt := 1 }) := by
  have bounds := wf_bounds hp
  have hleft : 0 ≠ s.params.nOc := by omega
  simp only [enterOpCondWait, opCondIteration, hleft, if_false]
  exact startCmd_eq hv

theorem opCondIteration_eq (hleft : s.ocCnt ≠ s.params.nOc) (hv : s.version.isSome = true) :
    opCondIteration s = .next (InitCmd.appCmd.start { s with ocCnt := s.ocCnt + 1 }) := by
  simp only [opCondIteration, hleft, if_false]
  exact startCmd_eq hv

theorem opCondIteration_last (hlast : s.ocCnt = s.params.nOc) : opCondIteration s = .next (initRaise .cardUnusable s) := by
  simp only [opCondIteration, hlast, if_true]

theorem judgeEcho_match (h : checkEcho s.params s.params.checkPattern s.extra = none) (herr : s.errCode = none) :
    judgeEcho s = .next (InitCmd.crcOnOff.start { s with version := some .v2, state := .crcEnable }) := by
  have hsame : { s with errCode := none } = s := by rw [← herr]
  simp only [judgeEcho, h, hsame]
  exact enterCrcEnable_eq .v2 s

theorem judgeEcho_mismatch (h : checkEcho s.params s.params.checkPattern s.extra ≠ none) : judgeEcho s = versionAttempt s := by
  unfold judgeEcho
  split
  · next hnone => exact absurd hnone h
  · rfl

theorem judgeIdle_idle (h : idleFlag s.status = true) : judgeIdle s = .next { s with micro := .opCondDelay } := by
  simp only [judgeIdle, h, if_true]

theorem judgeIdle_ready (h : idleFlag s.status = false) : judgeIdle s = enterCapacityProbe s := by
  simp only [judgeIdle, h, Bool.false_eq_true, if_false]

theorem enterCapacityProbe_v1 (hv : s.version = some .v1) : enterCapacityProbe s =
    .next (endStages { s with state := .capacityProbe, capacity := some .standard }) := by
  simp only [enterCapacityProbe, hv, readClass_some]

theorem enterCapacityProbe_v2 (hv : s.version = some .v2) : enterCapacityProbe s =
    .next (InitCmd.readOcr.start { s with state := .capacityProbe }) := by
  refine (congrArg (readClass · _) hv).trans ?_
  exact startCmd_eq (c := .readOcr) (s := { s with state := .capacityProbe }) hv

theorem judgeOcr_eq (herr : s.errCode = none) :
    judgeOcr s = .next (endStages { s with capacity := some (capacityFromOcr s.extra) }) := by
  rw [judgeOcr, herr]

/-- VersionProbe catches the IllegalCommand of its own command, which makes the card V1 (R169). -/
theorem stageErr_caught (s : State) : stageErr .sendIfCond (.commandRejected .illegalCommand) s =
    .next (InitCmd.crcOnOff.start { s with version := some .v1, state := .crcEnable }) := by
  simp only [stageErr, and_self, if_true]
  exact enterCrcEnable_eq .v1 s

/-- It is the one error a stage catches (R164, R173, R174, R178, R181). -/
theorem stageErr_fatal {e : Err} (s : State) (h : ¬ (c = .sendIfCond ∧ e = .commandRejected .illegalCommand)) :
    stageErr c e s = .next (initRaise e s) := by
  simp only [stageErr, h, if_false]

theorem initRaise_open (e : Err) (ho : s.scopeOpen = true) : initRaise e s = { s with micro := .csHigh (some e) } := by
  simp only [initRaise, ho, if_true]

theorem initRaise_closed (e : Err) (ho : s.scopeOpen = false) : initRaise e s = s.aborted e := by
  simp only [initRaise, ho, Bool.false_eq_true, if_false]
  rfl

/-- Settles O39: the class is there to be read, and the speed-up is one event or none. -/
theorem readyActions : Obligations.ReadyActions := by
  intro s class_ hb hm hc
  rw [step_finish hb hm, finishInit, hc, readClass_some]
  cases hsp : s.speedupReq <;> simp [readyInit, endOp, logEvent, hsp, hc]

/-! ## PowerUp -/

/-- INIT at its first call (R160): what it keeps is `cs_level` and the ports. -/
def State.poweringUp (s : State) (speedup : Bool) : State := { unsetRegs s with
  state := .powerUp
  busy := true
  readyCnt := 0
  respCnt := 0
  vpCnt := 0
  ocCnt := 0
  errCode := none
  scopeOpen := false
  owned := true
  speedupReq := speedup
  micro := .powerUpDelay
  op := .init .goIdle
  cmd := none }

theorem exec_init (s : State) (speedup : Bool) : exec (.init speedup) s = .next (s.poweringUp speedup) := rfl

@[simp] theorem poweringUp_params (s : State) (speedup : Bool) : (s.poweringUp speedup).params = s.params := rfl

/-- PowerUp at its call `m`, the calls before it answered. -/
def State.powerUpAt (s : State) (speedup : Bool) (m : Micro) (level : CsLevel) (answers : List Answer)
    (events : List Event) : State :=
  { s.poweringUp speedup with micro := m, csLevel := level, answers := answers, trace := s.trace ++ events }

section
variable {speedup : Bool} {d a b : Answer} {rest : List Answer}

theorem step_poweringUp (ha : s.answers = d :: rest) : step (s.poweringUp speedup) =
    .next (s.powerUpAt speedup .powerUpCsHigh s.csLevel rest [.delay s.params.tPowerupUs]) :=
  step_powerUpDelay rfl rfl ha

/-- PowerUp's drive of chip-select high is answered. -/
theorem runs_powerUpCsHigh (ha : s.answers = d :: a :: rest) : runs 2 (s.poweringUp speedup) =
    .next (powerUpCsAnswered a.fault (s.powerUpAt speedup .powerUpCsHigh s.csLevel rest
      [.delay s.params.tPowerupUs, .cs .high (!a.fault)])) := by
  rw [runs_step (step_poweringUp ha), runs_single, step_powerUpCsHigh rfl rfl rfl]
  simp [State.powerUpAt]

/-- PowerUp's dummy write is answered. -/
theorem runs_powerUpWrite (ha : s.answers = d :: a :: b :: rest) (hf : a.fault = false) : runs 3 (s.poweringUp speedup) =
    powerUpWritten b.fault (s.powerUpAt speedup .powerUpWrite .high rest
      [.delay s.params.tPowerupUs, .cs .high true, .write (List.replicate s.params.nDummy 0xFF) (!b.fault)]) := by
  have h2 := runs_powerUpCsHigh (speedup := speedup) ha
  rw [hf] at h2
  rw [runs_then (m := 2) (n := 1) h2, runs_single, step_powerUpWrite (a := b) rfl rfl rfl]
  simp [State.powerUpAt, powerUpCsAnswered, csAfter]

/-- Under `PerCommand` the dummy write is followed by Idle at once (R163). -/
theorem powerUpWritten_per (hscope : s.params.csScope = .perCommand) (hv : s.version = none) :
    powerUpWritten false s = .next (InitCmd.goIdle.start { s with state := .idle }) := by
  simp only [powerUpWritten, hscope, Bool.false_eq_true, if_false]
  exact startCmd_eq (c := .goIdle) hv

/-- Under `WholeHandshake` it is followed by the assertion of the handshake's scope (R163). -/
theorem powerUpWritten_whole (hscope : s.params.csScope = .wholeHandshake) :
    powerUpWritten false s = .next { s with micro := .csLow } := by
  simp only [powerUpWritten, hscope, Bool.false_eq_true, if_false]

/-- With the handshake's scope open, Idle is entered. -/
theorem csLowAnswered_whole (hop : s.op = .init c) (hscope : s.params.csScope = .wholeHandshake) (hv : s.version = none) :
    csLowAnswered false s =
      .next (InitCmd.goIdle.start { s with csLevel := .low, scopeOpen := true, state := .idle }) := by
  simp only [csLowAnswered, hop, hscope, Bool.false_eq_true, if_false, csAfter]
  exact startCmd_eq (c := .goIdle) hv

/-- Its assertion fails outside every scope: nothing is restored. -/
theorem csLowAnswered_whole_fault (hop : s.op = .init c) (hscope : s.params.csScope = .wholeHandshake)
    (ho : s.scopeOpen = false) :
    csLowAnswered true s = .next ({ s with csLevel := .unknown }.aborted .chipSelectFault) := by
  simp only [csLowAnswered, hop, hscope, if_true, csAfter]
  exact congrArg _ (initRaise_closed _ ho)

/-- Under `PerCommand` a scope is one command's, which then runs. -/
theorem csLowAnswered_per (hop : s.op = .init c) (hscope : s.params.csScope = .perCommand) (hv : c.versionOk s.version) :
    csLowAnswered false s = .next (beginExecCmd (c.index s.params) (c.arg s.params s.version) c.shape
      { s with csLevel := .low, scopeOpen := true }) := by
  simp only [csLowAnswered, hop, hscope, Bool.false_eq_true, if_false, csAfter]
  exact runCmd_eq hv

/-- The events of PowerUp whose calls succeed (R162). -/
def powerUpCalls (p : Params) : List Event :=
  [.delay p.tPowerupUs, .cs .high true, .write (List.replicate p.nDummy 0xFF) true]

/-- PowerUp under `PerCommand`. -/
theorem runs_powerUp_per (hscope : s.params.csScope = .perCommand) (ha : s.answers = d :: a :: b :: rest)
    (hf : a.fault = false) (hf' : b.fault = false) : runs 3 (s.poweringUp speedup) = .next (InitCmd.goIdle.start
      { s.powerUpAt speedup .powerUpWrite .high rest (powerUpCalls s.params) with state := .idle }) := by
  rw [runs_powerUpWrite ha hf, hf']
  exact powerUpWritten_per hscope rfl

/-- PowerUp under `WholeHandshake`, up to the assertion of the scope. -/
theorem runs_powerUp_whole (hscope : s.params.csScope = .wholeHandshake) (ha : s.answers = d :: a :: b :: rest)
    (hf : a.fault = false) (hf' : b.fault = false) : runs 3 (s.poweringUp speedup) =
      .next (s.powerUpAt speedup .csLow .high rest (powerUpCalls s.params)) := by
  rw [runs_powerUpWrite ha hf, hf']
  exact powerUpWritten_whole hscope

/-- The handshake's scope is opened, and Idle is entered. -/
theorem step_powerUp_open {events : List Event} (hscope : s.params.csScope = .wholeHandshake) (hf : a.fault = false) :
    step (s.powerUpAt speedup .csLow .high (a :: rest) events) = .next (InitCmd.goIdle.start
      { s.powerUpAt speedup .csLow .low rest (events ++ [.cs .low true]) with scopeOpen := true, state := .idle }) := by
  rw [step_csLow rfl rfl rfl, hf]
  refine (csLowAnswered_whole (by exact rfl) (by exact hscope) (by exact rfl)).trans ?_
  simp [State.powerUpAt]

end

/-- Settles O34: the answers to the three calls of PowerUp, and under `WholeHandshake` to the assertion after them. -/
theorem powerUpSequence : Obligations.PowerUpSequence := by
  intro s speedup d a b c rest ha dummy before
  have hcs := runs_powerUpCsHigh (speedup := speedup) ha
  have hwrite := runs_powerUpWrite (speedup := speedup) ha
  simp only [before, List.append_assoc]
  refine ⟨_, exec_init s speedup, rfl, fun hf => ?_, fun hf hf' => ?_, fun hf hf' hscope => ?_, fun hf hf' hscope => ?_⟩
  · rw [hcs, hf]
    rfl
  · rw [hwrite hf, hf']
    rfl
  · have hidle := runs_powerUp_per (speedup := speedup) hscope ha hf hf'
    rw [InitCmd.start_per (by exact hscope)] at hidle
    exact ⟨_, hidle, rfl, rfl, rfl, rfl, rfl, rfl⟩
  · have hlow := runs_powerUp_whole (speedup := speedup) hscope ha hf hf'
    refine ⟨⟨_, hlow, rfl, rfl⟩, fun hc => ?_, fun hc => ?_⟩
    · have hidle := runs_then_step hlow (step_powerUp_open hscope hc)
      rw [InitCmd.start_whole (by exact hscope)] at hidle
      exact ⟨_, hidle, rfl, rfl, rfl, rfl, rfl, rfl, rfl⟩
    · rw [runs_then (m := 3) (n := 1) hlow, runs_single, step_csLow rfl rfl rfl, hc]
      refine (csLowAnswered_whole_fault (by exact rfl) (by exact hscope) (by exact rfl)).trans ?_
      simp only [State.powerUpAt, powerUpCalls, List.append_assoc]
      rfl

end Sys2Proof.Machine

/-! PROOFS. How INIT takes the end of a command (44_init_fsm.md R164 to R181): a complete response comes to the command's stage,
under `PerCommand` through the restore of its scope (`runs_judged`), and an error no stage catches leaves INIT through one restore
(`runs_raised`). -/

namespace Sys2Proof.Machine

variable {s t u : State} {c : InitCmd} {e : Err} {a : Answer} {rest : List Answer}

/-! ## What the invariant says of INIT's commands -/

/-- INIT's command from its first exchange to its complete response. -/
theorem CoreInv.initCommand (hi : CoreInv s) (hb : s.busy = true) (hop : s.op = .init c) (hm : s.micro.isCommand = true) :
    s.errCode = none ∧ s.scopeOpen = true ∧ s.cmd.isSome = true ∧ s.state = c.stage ∧ c.versionOk s.version
      ∧ s.shape = c.shape := by
  have hr := hi.running hb
  have hcmd := running_ctx hr (running_cp hr hm)
  simp only [InCommand, hop] at hcmd
  obtain ⟨-, herr, hopen, hoperands, hrest⟩ := hcmd
  exact ⟨herr, hopen, by simp [hoperands], hrest⟩

/-- A complete response does not begin with the sentinel. -/
theorem CoreInv.status_ne_sentinel (hi : CoreInv s) (hb : s.busy = true) (hm : s.micro = .respond) : s.status ≠ sentinel := by
  have hpoint := running_cp (hi.running hb) (by rw [hm]; rfl)
  simp only [CommandPoint, hm] at hpoint
  exact hpoint.2

/-! ## The end of a command comes to its stage -/

theorem raise_init_whole (e : Err) (hop : s.op = .init c) (hscope : s.params.csScope = .wholeHandshake) :
    raise e s = stageErr c e s := by
  simp only [raise, hop, hscope]

theorem raise_init_per (e : Err) (hop : s.op = .init c) (hscope : s.params.csScope = .perCommand) :
    raise e s = .next { s with micro := .csHigh (some e) } := by
  simp only [raise, hop, hscope]

theorem cmdOk_init_whole (r : CmdResult) (hop : s.op = .init c) (hscope : s.params.csScope = .wholeHandshake) :
    cmdOk r s = stageOk c s := by
  simp only [cmdOk, hop, hscope]

theorem cmdOk_init_per (r : CmdResult) (hop : s.op = .init c) (hscope : s.params.csScope = .perCommand) :
    cmdOk r s = .next { s with micro := .csHigh none } := by
  simp only [cmdOk, hop, hscope]

/-- The restore of a command's own scope hands on the error in flight, else its own, else the command's success (R149, R185). -/
theorem step_restore_per {inFlight : Option Err} (hb : s.busy = true) (hop : s.op = .init c)
    (hscope : s.params.csScope = .perCommand) (hm : s.micro = .csHigh inFlight) (ha : s.answers = a :: rest) :
    step s = match scopeError inFlight a.fault with
      | none => stageOk c (s.restored a rest)
      | some e => stageErr c e (s.restored a rest) := by
  rw [step_csHigh hb hm ha]
  simp only [csHighAnswered, hop, hscope]
  cases hf : a.fault <;> cases scopeError inFlight _ <;> simp [State.restored, csAfter, hf, hop]

/-- Under `WholeHandshake` a restore with an error in flight is the end of INIT; under `PerCommand` it is so where the stage does
not catch the error (60_exceptions.md R196). -/
theorem step_unwind (hb : s.busy = true) (hop : s.op = .init c) (hm : s.micro = .csHigh (some e)) (ha : s.answers = a :: rest)
    (hfatal : ¬ (c = .sendIfCond ∧ e = .commandRejected .illegalCommand)) :
    step s = .next ((s.restored a rest).aborted e) := by
  cases hscope : s.params.csScope
  case wholeHandshake =>
    rw [step_csHigh hb hm ha]
    simp only [csHighAnswered, hop, hscope, scopeError]
    cases hf : a.fault <;> simp [State.restored, State.aborted, abortInit, endOp, csAfter, hf]
  case perCommand =>
    rw [step_restore_per hb hop hscope hm ha]
    exact (stageErr_fatal _ hfatal).trans (congrArg _ (initRaise_closed e rfl))

/-- An error raised in a command of INIT is taken to the restore of the scope that is open, whichever it is. -/
theorem raise_init_fatal (hop : s.op = .init c) (ho : s.scopeOpen = true)
    (hfatal : ¬ (c = .sendIfCond ∧ e = .commandRejected .illegalCommand)) :
    raise e s = .next { s with micro := .csHigh (some e) } := by
  cases hscope : s.params.csScope
  case wholeHandshake => rw [raise_init_whole e hop hscope, stageErr_fatal s hfatal, initRaise_open e ho]
  case perCommand => exact raise_init_per e hop hscope

/-- An error that no stage catches ends INIT in two steps: it is raised, and the scope is restored. -/
theorem runs_raised (hstep : step s = raise e u) (hb : u.busy = true) (hop : u.op = .init c) (ho : u.scopeOpen = true)
    (ha : u.answers = a :: rest) (hfatal : ¬ (c = .sendIfCond ∧ e = .commandRejected .illegalCommand)) :
    runs 2 s = .next ((u.restored a rest).aborted e) := by
  rw [raise_init_fatal hop ho hfatal] at hstep
  exact runs_then_step (runs_one hstep) (step_unwind (s := { u with micro := .csHigh (some e) }) hb hop rfl ha hfatal)

theorem step_respond_error {k : RejectKind} (hb : s.busy = true) (hm : s.micro = .respond) (hne : s.status ≠ sentinel)
    (hk : statusError s.status = some k) : step s = raise (.commandRejected k) s := by
  rw [step_respond hb hm hne]
  cases readsExtra s.shape s.status <;> simp [receive, hk]

theorem step_respond_ok (hb : s.busy = true) (hm : s.micro = .respond) (hne : s.status ≠ sentinel) (herr : s.errCode = none)
    (hok : statusError s.status = none) : ∃ r, step s = cmdOk r s := by
  have hsame : { s with errCode := none } = s := by rw [← herr]
  refine ⟨⟨s.status, if readsExtra s.shape s.status then some s.extra else none⟩, ?_⟩
  rw [step_respond hb hm hne]
  cases readsExtra s.shape s.status <;> simp [receive, hok, hsame]

/-! ## The judgement of a complete response -/

/-- A command's stage gets its success or the error of its status byte. -/
def judged (c : InitCmd) (status : Byte) (s : State) : Out :=
  match statusError status with
  | none => stageOk c s
  | some k => stageErr c (.commandRejected k) s

theorem judged_ok {status : Byte} (h : statusError status = none) : judged c status s = stageOk c s := by
  simp only [judged, h]

theorem judged_error {status : Byte} {k : RejectKind} (h : statusError status = some k) :
    judged c status s = stageErr c (.commandRejected k) s := by
  simp only [judged, h]

/-- What belongs to the restore of a command's own scope: there is one under `PerCommand` (44_init_fsm.md R161). -/
def ownScope {α : Type} (p : Params) (x : α) : List α :=
  match p.csScope with
  | .wholeHandshake => []
  | .perCommand => [x]

theorem ownScope_whole {α : Type} {p : Params} (h : p.csScope = .wholeHandshake) (x : α) : ownScope p x = [] := by
  simp only [ownScope, h]

theorem ownScope_per {α : Type} {p : Params} (h : p.csScope = .perCommand) (x : α) : ownScope p x = [x] := by
  simp only [ownScope, h]

theorem eq_of_mem_ownScope {α : Type} {p : Params} {x y : α} (h : y ∈ ownScope p x) : y = x := by
  unfold ownScope at h
  split at h <;> simp at h
  exact h

/-- A command of INIT is over: under `PerCommand` the restore of its scope has taken the answer `a`. -/
def State.cmdClosed (s : State) (a : Answer) (rest : List Answer) : State :=
  match s.params.csScope with
  | .wholeHandshake => s
  | .perCommand => s.restored a rest

theorem State.cmdClosed_whole (h : s.params.csScope = .wholeHandshake) : s.cmdClosed a rest = s := by
  simp only [State.cmdClosed, h]

theorem State.cmdClosed_per (h : s.params.csScope = .perCommand) : s.cmdClosed a rest = s.restored a rest := by
  simp only [State.cmdClosed, h]

/-- How many steps lead from a complete response to the stage. -/
def closeSteps (p : Params) : Nat :=
  match p.csScope with
  | .wholeHandshake => 1
  | .perCommand => 2

/-- A complete response comes to the command's stage. A restore that faults hides a success, but not an error of the status. -/
theorem runs_judged (hb : s.busy = true) (hop : s.op = .init c) (hm : s.micro = .respond) (hne : s.status ≠ sentinel)
    (herr : s.errCode = none) (ha : s.answers = ownScope s.params a ++ rest)
    (hf : statusError s.status = none → a.fault = false) :
    ∃ m, runs (closeSteps s.params) s = judged c s.status { s.cmdClosed a rest with micro := m } := by
  cases hscope : s.params.csScope
  case wholeHandshake =>
    refine ⟨.respond, ?_⟩
    have hsame : { s.cmdClosed a rest with micro := .respond } = s := by rw [State.cmdClosed_whole hscope, ← hm]
    rw [hsame]
    simp only [closeSteps, hscope, runs_single]
    cases hst : statusError s.status with
    | some k => rw [step_respond_error hb hm hne hst, raise_init_whole _ hop hscope, judged_error hst]
    | none =>
      obtain ⟨r, hstep⟩ := step_respond_ok hb hm hne herr hst
      rw [hstep, cmdOk_init_whole r hop hscope, judged_ok hst]
  case perCommand =>
    rw [ownScope_per hscope] at ha
    simp only [closeSteps, hscope, State.cmdClosed_per hscope]
    cases hst : statusError s.status with
    | some k =>
      have hstep := (step_respond_error hb hm hne hst).trans (raise_init_per _ hop hscope)
      refine ⟨.csHigh (some (.commandRejected k)), ?_⟩
      rw [runs_step hstep, runs_single, judged_error hst]
      exact step_restore_per (s := { s with micro := .csHigh (some (.commandRejected k)) }) hb hop hscope rfl ha
    | none =>
      obtain ⟨r, hstep⟩ := step_respond_ok hb hm hne herr hst
      refine ⟨.csHigh none, ?_⟩
      rw [runs_step (hstep.trans (cmdOk_init_per r hop hscope)), runs_single, judged_ok hst,
        step_restore_per (s := { s with micro := .csHigh none }) hb hop hscope rfl ha, hf hst]
      rfl

/-! ## What the stages go on from -/

/-- INIT, busy with no error, has come from `s` to `t`: `handshake` is what it holds in its registers, `events` have been
recorded, and of the answers `rest` are left. -/
structure Reached (s : State) (handshake : Handshake) (events : List Event) (rest : List Answer) (t : State) : Prop where
  busy : t.busy = true
  errCode : t.errCode = none
  handshake : t.handshake = handshake
  outside : t.outside = ⟨s.params, s.host, rest, s.trace ++ events⟩
  rsp : t.rsp = s.rsp

namespace Reached

variable {handshake : Handshake} {events : List Event}

theorem state (h : Reached s handshake events rest t) : t.state = handshake.state := congrArg Handshake.state h.handshake
theorem vpCnt (h : Reached s handshake events rest t) : t.vpCnt = handshake.vpCnt := congrArg Handshake.vpCnt h.handshake
theorem ocCnt (h : Reached s handshake events rest t) : t.ocCnt = handshake.ocCnt := congrArg Handshake.ocCnt h.handshake
theorem version (h : Reached s handshake events rest t) : t.version = handshake.version :=
  congrArg Handshake.version h.handshake
theorem capacity (h : Reached s handshake events rest t) : t.capacity = handshake.capacity :=
  congrArg Handshake.capacity h.handshake
theorem params (h : Reached s handshake events rest t) : t.params = s.params := congrArg Outside.params h.outside
theorem answers (h : Reached s handshake events rest t) : t.answers = rest := congrArg Outside.answers h.outside
theorem trace (h : Reached s handshake events rest t) : t.trace = s.trace ++ events := congrArg Outside.trace h.outside

/-- The next command is started. -/
theorem start (h : Reached s handshake events rest t) (c : InitCmd) : Reached s handshake events rest (c.start t) where
  busy := (c.start_busy t).trans h.busy
  errCode := (c.start_errCode t).trans h.errCode
  handshake := (c.start_handshake t).trans h.handshake
  outside := (c.start_outside t).trans h.outside
  rsp := by obtain ⟨_, _, _, _, he⟩ := c.start_eq t; rw [he]; exact h.rsp

/-! The registers a stage writes before it starts its command. -/

theorem versionProbe (h : Reached s handshake events rest t) : Reached s { handshake with state := .versionProbe, vpCnt := 1 }
    events rest { t with state := .versionProbe, vpCnt := 1 } := by
  obtain ⟨hb, herr, rfl, hout, hrsp⟩ := h; exact ⟨hb, herr, rfl, hout, hrsp⟩
theorem attempt (h : Reached s handshake events rest t) : Reached s { handshake with vpCnt := handshake.vpCnt + 1 }
    events rest { t with vpCnt := t.vpCnt + 1 } := by
  obtain ⟨hb, herr, rfl, hout, hrsp⟩ := h; exact ⟨hb, herr, rfl, hout, hrsp⟩
theorem crcEnable (h : Reached s handshake events rest t) (v : CardVersion) :
    Reached s { handshake with version := some v, state := .crcEnable }
      events rest { t with version := some v, state := .crcEnable } := by
  obtain ⟨hb, herr, rfl, hout, hrsp⟩ := h; exact ⟨hb, herr, rfl, hout, hrsp⟩
theorem opCondWait (h : Reached s handshake events rest t) : Reached s { handshake with state := .opCondWait, ocCnt := 1 }
    events rest { t with state := .opCondWait, ocCnt := 1 } := by
  obtain ⟨hb, herr, rfl, hout, hrsp⟩ := h; exact ⟨hb, herr, rfl, hout, hrsp⟩
theorem iteration (h : Reached s handshake events rest t) : Reached s { handshake with ocCnt := handshake.ocCnt + 1 }
    events rest { t with ocCnt := t.ocCnt + 1 } := by
  obtain ⟨hb, herr, rfl, hout, hrsp⟩ := h; exact ⟨hb, herr, rfl, hout, hrsp⟩
theorem classified (h : Reached s handshake events rest t) (k : CapClass) :
    Reached s { handshake with capacity := some k } events rest { t with capacity := some k } := by
  obtain ⟨hb, herr, rfl, hout, hrsp⟩ := h; exact ⟨hb, herr, rfl, hout, hrsp⟩
theorem capacityProbe (h : Reached s handshake events rest t) : Reached s { handshake with state := .capacityProbe }
    events rest { t with state := .capacityProbe } := by
  obtain ⟨hb, herr, rfl, hout, hrsp⟩ := h; exact ⟨hb, herr, rfl, hout, hrsp⟩

/-- The stages are done. -/
theorem endStages (h : Reached s handshake events rest t) : Reached s handshake events rest (endStages t) := by
  unfold Machine.endStages
  split <;> exact ⟨h.busy, h.errCode, h.handshake, h.outside, h.rsp⟩

end Reached

theorem endStages_micro (s : State) : (endStages s).micro = .csHigh none ∨ (endStages s).micro = .finish := by
  unfold endStages
  split
  · exact .inl rfl
  · exact .inr rfl

/-- With the scope of its command closed, INIT is where the stage takes over. -/
theorem reached_cmdClosed (hb : s.busy = true) (herr : s.errCode = none) (ha : s.answers = ownScope s.params a ++ rest)
    (m : Micro) :
    Reached s s.handshake (ownScope s.params (.cs .high (!a.fault))) rest { s.cmdClosed a rest with micro := m } := by
  cases h : s.params.csScope
  case wholeHandshake =>
    rw [ownScope_whole h] at ha ⊢
    rw [State.cmdClosed_whole h]
    exact ⟨hb, herr, rfl, by simp [State.outside, ha], rfl⟩
  case perCommand =>
    rw [ownScope_per h, State.cmdClosed_per h]
    exact ⟨hb, herr, rfl, rfl, rfl⟩

/-- A complete response comes to its stage with nothing changed that a stage looks at. -/
theorem CoreInv.runs_judged (hi : CoreInv s) (hb : s.busy = true) (hop : s.op = .init c) (hm : s.micro = .respond)
    (ha : s.answers = ownScope s.params a ++ rest) (hf : statusError s.status = none → a.fault = false) :
    ∃ n t, runs n s = judged c s.status t ∧ Reached s s.handshake (ownScope s.params (.cs .high (!a.fault))) rest t
      ∧ t.op = .init c ∧ t.status = s.status ∧ t.extra = s.extra := by
  obtain ⟨herr, -⟩ := hi.initCommand hb hop (by rw [hm]; rfl)
  obtain ⟨m, hrun⟩ := Machine.runs_judged hb hop hm (hi.status_ne_sentinel hb hm) herr ha hf
  refine ⟨_, _, hrun, reached_cmdClosed hb herr ha m, ?_⟩
  unfold State.cmdClosed
  split <;> exact ⟨hop, rfl, rfl⟩

/-! ## The statements -/

/-- The answer raises an error at a call of `wait_ready` or `exec_cmd`, and the error is none of a status byte. -/
theorem State.raisedBy.isCommand {x : Answer} (h : s.raisedBy x e) :
    s.micro.isCommand = true ∧ (∃ call, pendingCall s = some call) ∧ ∀ k, e ≠ .commandRejected k := by
  cases e with
  | busTransferFault => obtain ⟨hm | hm | ⟨k, hm⟩, -⟩ := h <;> simp [hm, Micro.isCommand, pendingCall]
  | busWriteFault | readyTimeout | responseTimeout => obtain ⟨hm, -⟩ := h; simp [hm, Micro.isCommand, pendingCall]
  | chipSelectFault | commandRejected | unexpectedVoltage | checkPatternMismatch | cardUnusable => exact h.elim

/-- Settles O41: a raised error that no stage catches ends INIT through one restore (`runs_raised`). -/
theorem otherCommandErrorsAreFatal : Obligations.OtherCommandErrorsAreFatal := by
  intro s c hi hb hop
  refine ⟨fun st k a rest hm hst hk hfatal ha => ?_, fun e x a rest hr ha => ?_⟩
  · subst hst
    obtain ⟨-, hopen, -, hstage, -⟩ := hi.initCommand hb hop (by rw [hm]; rfl)
    have hrun := runs_raised (step_respond_error hb hm (hi.status_ne_sentinel hb hm) hk) hb hop hopen ha (by simpa using hfatal)
    exact ⟨_, hrun, rfl, hstage, rfl, rfl, rfl, rfl⟩
  · obtain ⟨hm, ⟨call, hc⟩, hrejected⟩ := hr.isCommand
    obtain ⟨-, hopen, -, hstage, -⟩ := hi.initCommand hb hop hm
    have hrun := runs_raised (step_raisedBy hb hr hc ha) hb hop hopen rfl (fun h => hrejected _ h.2)
    refine ⟨call, _, hc, hrun, rfl, hstage, rfl, rfl, ?_, rfl⟩
    simp [State.restored, State.aborted]

/-- Of any answers, that to the restore of a command's own scope is the first. -/
theorem exists_ownScope (p : Params) (a : Answer) (rest : List Answer) :
    ∃ rest', a :: rest = ownScope p a ++ rest' := by
  cases h : p.csScope
  · exact ⟨a :: rest, by rw [ownScope_whole h]; rfl⟩
  · exact ⟨rest, by rw [ownScope_per h]; rfl⟩

/-- Settles O36: VersionProbe catches the error of the status byte (`stageErr_caught`), whatever the restore answers. -/
theorem illegalCommandMeansVersionOne : Obligations.IllegalCommandMeansVersionOne := by
  intro s st a rest hi hb hop hm hst hill ha
  have hk : statusError s.status = some .illegalCommand := statusError_illegal.mpr (hst ▸ hill)
  obtain ⟨rest', hrest⟩ := exists_ownScope s.params a rest
  obtain ⟨n, u, hrun, hreached, -, hstatus, hextra⟩ := hi.runs_judged hb hop hm (ha.trans hrest) (by simp [hk])
  rw [judged_error hk, stageErr_caught] at hrun
  have ht := (hreached.crcEnable .v1).start .crcOnOff
  refine ⟨n, _, hrun, ht.state, ht.version, by simp, ht.vpCnt, by simp [hextra], by simp [hstatus, hst], ht.errCode,
    fun hs => ?_, fun hs => ?_⟩
  · rw [ownScope_whole hs] at ht hrest
    exact ⟨ht.trace.trans (List.append_nil _), ht.answers.trans hrest.symm⟩
  · rw [ownScope_per hs] at ht hrest
    exact ⟨ht.trace, ht.answers.trans (List.cons.inj hrest).2.symm⟩

theorem checkEcho_ne_none {p : Params} {pattern : Byte} {q : Quad} (h : q.voltage ≠ p.vhsCode ∨ q.pattern ≠ pattern) :
    checkEcho p pattern q ≠ none := by
  by_cases hv : q.voltage = p.vhsCode
  · rw [checkEcho_of_pattern_ne hv (h.resolve_left (not_not_intro hv))]
    simp
  · rw [checkEcho_of_voltage_ne pattern hv]
    simp

/-- A SEND_IF_COND that mismatches on the last attempt is no error of its own: CardUnusable leaves the stage through the restore
of the scope that is open, the handshake's or the command's. -/
theorem runs_lastMismatch (hi : CoreInv s) (hb : s.busy = true) (hop : s.op = .init .sendIfCond) (hm : s.micro = .respond)
    (hok : statusError s.status = none) (hmismatch : checkEcho s.params s.params.checkPattern s.extra ≠ none)
    (hlast : s.vpCnt = s.params.nVp) (hf : a.fault = false) (ha : s.answers = a :: rest) :
    runs 2 s = .next ((s.restored a rest).aborted .cardUnusable) := by
  obtain ⟨herr, hopen, -⟩ := hi.initCommand hb hop (by rw [hm]; rfl)
  have hstage {u : State} (hp : u.params = s.params) (hx : u.extra = s.extra) (hc : u.vpCnt = s.vpCnt) :
      judged .sendIfCond s.status u = .next (initRaise .cardUnusable u) := by
    rw [judged_ok hok]
    exact (judgeEcho_mismatch (by rwa [hp, hx])).trans (versionAttempt_last (by rw [hc, hp, hlast]))
  cases hscope : s.params.csScope
  case wholeHandshake =>
    obtain ⟨m, hrun⟩ := runs_judged hb hop hm (hi.status_ne_sentinel hb hm) herr (a := a) (rest := s.answers)
      (by rw [ownScope_whole hscope]; rfl) (fun _ => hf)
    rw [State.cmdClosed_whole hscope] at hrun
    have hraise := (hrun.trans (hstage rfl rfl rfl)).trans (congrArg _ (initRaise_open _ hopen))
    simp only [closeSteps, hscope] at hraise
    exact runs_then_step hraise (step_unwind (s := { s with micro := .csHigh (some .cardUnusable) }) hb hop rfl ha (by simp))
  case perCommand =>
    obtain ⟨m, hrun⟩ := runs_judged hb hop hm (hi.status_ne_sentinel hb hm) herr (rest := rest)
      (by rw [ownScope_per hscope]; exact ha) (fun _ => hf)
    rw [State.cmdClosed_per hscope] at hrun
    have hend := (hrun.trans (hstage rfl rfl rfl)).trans (congrArg _ (initRaise_closed _ rfl))
    simp only [closeSteps, hscope] at hend
    exact hend

/-- Settles O37: the echo of a SEND_IF_COND without an error comes to `judgeEcho`. -/
theorem echoDecidesTheVersion : Obligations.EchoDecidesTheVersion := by
  intro s st q a rest hi hb hop hm hst hok hq hf ha
  have hnone : statusError s.status = none := statusError_eq_none.mpr (hst ▸ hok)
  obtain ⟨-, -, -, hstage, hv, -⟩ := hi.initCommand hb hop (by rw [hm]; rfl)
  obtain ⟨rest', hrest⟩ := exists_ownScope s.params a rest
  obtain ⟨n, u, hrun, hreached, -, -, hextra⟩ := hi.runs_judged hb hop hm (ha.trans hrest) (fun _ => hf)
  rw [judged_ok hnone] at hrun
  have hecho : checkEcho u.params u.params.checkPattern u.extra = checkEcho s.params s.params.checkPattern q := by
    rw [hreached.params, hextra, hq]
  refine ⟨fun hvoltage hpattern => ?_, fun h hleft => ?_, fun h hlast => ?_⟩
  · have hmatch := hrun.trans (judgeEcho_match (hecho.trans (checkEcho_of_match hvoltage hpattern)) hreached.errCode)
    have ht := (hreached.crcEnable .v2).start .crcOnOff
    exact ⟨n, _, hmatch, ht.state, ht.version, by simp, ht.vpCnt, ht.errCode⟩
  · have hnext := (hrun.trans (judgeEcho_mismatch (by rw [hecho]; exact checkEcho_ne_none h))).trans
      (versionAttempt_eq (by rw [hreached.vpCnt, hreached.params]; exact hleft.ne) (hreached.version.trans hv))
    have ht := hreached.attempt.start .sendIfCond
    exact ⟨n, _, hnext, ht.state.trans hstage, ht.version.trans hv, by simp, ht.vpCnt, ht.errCode, ht.busy⟩
  · rw [runs_lastMismatch hi hb hop hm hnone (by rw [hq]; exact checkEcho_ne_none h) hlast hf ha]
    simp [State.restored, State.aborted, hf, ← hlast]

/-- An error that leaves a stage ends INIT, after the restore of the handshake's scope where that is open. -/
theorem initRaise_ends (hb : s.busy = true) (hop : s.op = .init c) (ha : s.answers = a :: rest)
    (hfatal : ¬ (c = .sendIfCond ∧ e = .commandRejected .illegalCommand)) :
    ∃ (n : Nat) (t : State) (after : List Event), runs n (initRaise e s) = .next (t.aborted e) ∧ t.handshake = s.handshake
      ∧ t.rsp = s.rsp ∧ t.trace = s.trace ++ after ∧ ∀ x ∈ after, x.isCs = true := by
  cases ho : s.scopeOpen
  case false => exact ⟨0, s, [], by rw [initRaise_closed e ho, runs_zero], rfl, rfl, by simp, by simp⟩
  case true =>
    have hstep := step_unwind (s := { s with micro := .csHigh (some e) }) hb hop rfl ha hfatal
    exact ⟨1, { s with micro := .csHigh (some e) }.restored a rest, [.cs .high (!a.fault)],
      by rw [initRaise_open e ho, runs_one hstep], rfl, rfl, rfl, by simp [Event.isCs]⟩

/-- A SD_SEND_OP_COND that finds the card idle is followed by the delay, whichever iteration it was (R176). -/
theorem runs_opCondDelay {d : Answer} {n : Nat} {u : State} {handshake : Handshake} {events : List Event}
    (hrun : runs n t = judgeIdle u) (hidle : idleFlag u.status = true) (hreached : Reached s handshake events (d :: rest) u) :
    ∃ v, runs (n + 1) t = opCondIteration v ∧ Reached s handshake (events ++ [.delay s.params.tOcUs]) rest v
      ∧ v.op = u.op ∧ v.scopeOpen = u.scopeOpen ∧ v.csLevel = u.csLevel := by
  have hstep := step_opCondDelay (s := { u with micro := .opCondDelay }) hreached.busy rfl hreached.answers
  refine ⟨{ u with micro := .opCondDelay, answers := rest, trace := u.trace ++ [.delay u.params.tOcUs] }, ?_,
    ⟨hreached.busy, hreached.errCode, hreached.handshake, ?_, hreached.rsp⟩, rfl, rfl, rfl⟩
  · rw [runs_then (hrun.trans (judgeIdle_idle hidle)), runs_single, hstep]
  · have hout := hreached.outside
    simp only [State.outside, Outside.mk.injEq] at hout
    obtain ⟨hparams, hhost, -, htrace⟩ := hout
    simp [State.outside, hparams, hhost, htrace]

/-- Settles O38: the status of a SD_SEND_OP_COND without an error comes to `judgeIdle`. -/
theorem idleFlagDecidesOpCondWait : Obligations.IdleFlagDecidesOpCondWait := by
  intro s st a d e rest hi hb hop hm hst hok hf ha
  have hnone : statusError s.status = none := statusError_eq_none.mpr (hst ▸ hok)
  obtain ⟨-, -, -, hstage, hv, -⟩ := hi.initCommand hb hop (by rw [hm]; rfl)
  have hans : s.answers = ownScope s.params a ++ d :: e :: rest := by
    cases hs : s.params.csScope <;> simp only [hs] at ha
    · rw [ownScope_whole hs]; exact ha
    · rw [ownScope_per hs]; exact ha
  obtain ⟨n, u, hrun, hreached, huop, hustatus, -⟩ := hi.runs_judged hb hop hm hans (fun _ => hf)
  rw [judged_ok hnone] at hrun
  rw [hf, Bool.not_false] at hreached
  have hstatus : idleFlag u.status = st.getLsbD 0 := by rw [hustatus, hst]; rfl
  have hcs (x : Event) (hx : x ∈ ownScope s.params (.cs .high true)) : x = .cs .high true := eq_of_mem_ownScope hx
  refine ⟨fun hidle hleft => ?_, fun hidle hlast => ?_, fun hclear hv1 => ?_, fun hclear hv2 => ?_⟩
  · obtain ⟨v, hwait, hreached, -⟩ := runs_opCondDelay hrun (hstatus.trans hidle) hreached
    have hnext := hwait.trans (opCondIteration_eq (by rw [hreached.ocCnt, hreached.params]; exact hleft.ne)
      (by rw [hreached.version]; exact hv))
    have ht := hreached.iteration.start .appCmd
    exact ⟨_, _, _, hnext, ht.state.trans hstage, by simp, ht.ocCnt, ht.version, ht.busy,
      ht.trace.trans (List.append_assoc _ _ _).symm, hcs⟩
  · obtain ⟨v, hwait, hreached, hvop, -⟩ := runs_opCondDelay hrun (hstatus.trans hidle) hreached
    have hraise := hwait.trans (opCondIteration_last (by rw [hreached.ocCnt, hreached.params]; exact hlast))
    obtain ⟨k, t, after, hend, hkeeps, hrsp, htrace, hafter⟩ :=
      initRaise_ends (e := .cardUnusable) hreached.busy (hvop.trans huop) hreached.answers (by simp)
    rw [hreached.handshake] at hkeeps
    refine ⟨_, _, ownScope s.params (.cs .high true), after, (runs_then hraise).trans hend, rfl, rfl, rfl,
      (congrArg Handshake.state hkeeps).trans hstage, (congrArg Handshake.ocCnt hkeeps).trans hlast, ?_, ?_, fun x hx => ?_⟩
    · simp [State.aborted, hrsp, hreached.rsp]
    · simp [State.aborted, htrace, hreached.trace]
    · exact (List.mem_append.mp hx).elim (fun hx => hcs x hx ▸ rfl) (hafter x)
  · have hprobe := hrun.trans ((judgeIdle_ready (hstatus.trans hclear)).trans (enterCapacityProbe_v1 (hreached.version.trans hv1)))
    have ht := (hreached.capacityProbe.classified .standard).endStages
    exact ⟨n, _, _, hprobe, ht.state, ht.capacity, endStages_micro _, ht.trace, hcs⟩
  · have hprobe := hrun.trans ((judgeIdle_ready (hstatus.trans hclear)).trans (enterCapacityProbe_v2 (hreached.version.trans hv2)))
    have ht := hreached.capacityProbe.start .readOcr
    exact ⟨n, _, hprobe, ht.state, by simp, ht.ocCnt, ht.busy⟩

end Sys2Proof.Machine

/-! PROOFS. INIT ends, and `state` moves as the table of 44_init_fsm.md R184 says. `State.callsLeft` adds up R186's bound from any
point of INIT on. Each step of INIT is on its course (`OnCourse`): it stops with no fault, makes a move of the table, and stays
within the calls that are left. -/

namespace Sys2Proof.Machine

variable {s t : State} {c : InitCmd} {e : Err} {beyond : Nat}

/-! ## The calls that are left (43_bus_transaction.md R147, 44_init_fsm.md R186) -/

/-- The calls of the assertion, or of the restore, of a command's own scope. -/
def ownScopeCalls (p : Params) : Nat := (ownScope p ()).length

/-- The most calls of a command of INIT. -/
def initCmdCalls (p : Params) (c : InitCmd) : Nat :=
  ownScopeCalls p + (p.cmdCalls + c.shape.extraBytes) + ownScopeCalls p

/-- The calls and the event after the last command: the restore of the handshake's scope, where there is one, and the speed-up. -/
def closingCalls (p : Params) : Nat :=
  match p.csScope with
  | .wholeHandshake => 2
  | .perCommand => 1

/-- The most calls from an iteration of OpCondWait on, with `k` iterations left. -/
def opCondCalls (p : Params) (k : Nat) : Nat :=
  k * (initCmdCalls p .appCmd + initCmdCalls p .sdSendOpCond + 1) + (initCmdCalls p .readOcr + closingCalls p)

/-- The most calls from an attempt of VersionProbe on, with `k` attempts left. -/
def probeCalls (p : Params) (k : Nat) : Nat :=
  k * initCmdCalls p .sendIfCond + (initCmdCalls p .crcOnOff + opCondCalls p p.nOc)

/-- The most calls after the end of a command. -/
def State.callsAfter (s : State) : InitCmd → Nat
  | .goIdle => probeCalls s.params s.params.nVp
  | .sendIfCond => probeCalls s.params (s.params.nVp - s.vpCnt)
  | .crcOnOff => opCondCalls s.params s.params.nOc
  | .appCmd => initCmdCalls s.params .sdSendOpCond + 1 + opCondCalls s.params (s.params.nOc - s.ocCnt)
  | .sdSendOpCond => 1 + opCondCalls s.params (s.params.nOc - s.ocCnt)
  | .readOcr => closingCalls s.params

/-- The most calls of a command from a point inside it to its complete response. -/
def State.callsInCmd (s : State) : Nat :=
  match s.micro with
  | .readyXfer => 2 * (s.params.nReady - s.readyCnt) + 2 + s.params.nResp + s.shape.extraBytes
  | .readyDelay => 2 * (s.params.nReady - s.readyCnt) + 1 + s.params.nResp + s.shape.extraBytes
  | .sendFrame | .frameWrite => 1 + s.params.nResp + s.shape.extraBytes
  | .pollXfer => s.params.nResp - s.respCnt + 1 + s.shape.extraBytes
  | .extraXfer k => 4 - k
  | _ => 0

/-- The most calls and speed-up events of INIT from a point of it on. -/
def State.callsLeft (s : State) : Nat :=
  match s.op with
  | .init c =>
    let fromAssertion := 1 + (s.params.cmdCalls + c.shape.extraBytes) + ownScopeCalls s.params + s.callsAfter c
    match s.micro with
    | .idle => 0
    | .powerUpDelay => 3 + fromAssertion
    | .powerUpCsHigh => 2 + fromAssertion
    | .powerUpWrite => 1 + fromAssertion
    | .csLow => fromAssertion
    | .csHigh _ =>
      match s.params.csScope with
      | .wholeHandshake => 2
      | .perCommand => 1 + s.callsAfter c
    | .opCondDelay => 1 + opCondCalls s.params (s.params.nOc - s.ocCnt)
    | .finish => 1
    | _ => s.callsInCmd + ownScopeCalls s.params + s.callsAfter c
  | _ => 0

/-- The next step runs a pure part of a command, and a call comes after it. -/
def Micro.isPure : Micro → Bool
  | .sendFrame | .respond => true
  | _ => false

/-- What every step of INIT lessens: the calls left, each counted twice, and one for a pure part before the next of them. -/
def State.weight (s : State) : Nat := 2 * s.callsLeft + s.micro.isPure.toNat

theorem ownScopeCalls_whole {p : Params} (h : p.csScope = .wholeHandshake) : ownScopeCalls p = 0 := by
  rw [ownScopeCalls, ownScope_whole h]; rfl

theorem ownScopeCalls_per {p : Params} (h : p.csScope = .perCommand) : ownScopeCalls p = 1 := by
  rw [ownScopeCalls, ownScope_per h]; rfl

theorem opCondCalls_succ (p : Params) (k : Nat) : opCondCalls p (k + 1) =
    initCmdCalls p .appCmd + initCmdCalls p .sdSendOpCond + 1 + opCondCalls p k := by
  simp only [opCondCalls, Nat.succ_mul]; omega

theorem probeCalls_succ (p : Params) (k : Nat) : probeCalls p (k + 1) = initCmdCalls p .sendIfCond + probeCalls p k := by
  simp only [probeCalls, Nat.succ_mul]; omega

theorem readOcr_le_opCondCalls (p : Params) (k : Nat) : initCmdCalls p .readOcr + closingCalls p ≤ opCondCalls p k :=
  Nat.le_add_left _ _

theorem crcOnOff_le_probeCalls (p : Params) (k : Nat) : initCmdCalls p .crcOnOff + opCondCalls p p.nOc ≤ probeCalls p k :=
  Nat.le_add_left _ _

theorem closingCalls_le_callsAfter (s : State) (c : InitCmd) : closingCalls s.params ≤ s.callsAfter c := by
  have hoc := readOcr_le_opCondCalls s.params
  have hprobe := crcOnOff_le_probeCalls s.params
  cases c <;> simp only [State.callsAfter]
  case goIdle => have := hprobe s.params.nVp; have := hoc s.params.nOc; omega
  case sendIfCond => have := hprobe (s.params.nVp - s.vpCnt); have := hoc s.params.nOc; omega
  case crcOnOff => have := hoc s.params.nOc; omega
  case appCmd | sdSendOpCond => have := hoc (s.params.nOc - s.ocCnt); omega
  case readOcr => exact le_rfl

theorem callsLeft_command (hop : s.op = .init c) (hm : s.micro.isCommand = true) :
    s.callsLeft = s.callsInCmd + ownScopeCalls s.params + s.callsAfter c := by
  simp only [State.callsLeft, hop]
  cases hmicro : s.micro <;> simp only [hmicro, Micro.isCommand, Bool.false_eq_true] at hm ⊢

/-! ## The course of INIT -/

/-- The outcome is a state of INIT, or one in which INIT has ended, that `state` may move to and that has this weight at most. -/
def OnCourse (a : Stage) (n : Nat) (o : Out) : Prop :=
  ∃ t, o = .next t ∧ a.mayMove t.state = true ∧ (t.busy = true → ∃ c, t.op = .init c) ∧ t.weight ≤ n

theorem OnCourse.mono {a : Stage} {m n : Nat} {o : Out} (h : OnCourse a m o) (hle : m ≤ n) : OnCourse a n o := by
  obtain ⟨t, ho, hmove, hinit, hw⟩ := h
  exact ⟨t, ho, hmove, hinit, hw.trans hle⟩

theorem onCourse_of_init {a : Stage} {n : Nat} (hop : t.op = .init c) (hmove : a.mayMove t.state = true) (hw : t.weight ≤ n) :
    OnCourse a n (.next t) := ⟨t, rfl, hmove, fun _ => ⟨c, hop⟩, hw⟩

theorem mayMove_self (a : Stage) : a.mayMove a = true := by simp [Stage.mayMove]

theorem onCourse_stays {a : Stage} (hop : t.op = .init c) (hst : t.state = a) : OnCourse a t.weight (.next t) :=
  onCourse_of_init hop (hst ▸ mayMove_self _) le_rfl

theorem mayMove_unusable {a : Stage} (h : a.atRest = false) : a.mayMove .unusable = true := by
  revert h
  cases a <;> decide

theorem stage_atRest (c : InitCmd) : c.stage.atRest = false := by cases c <;> rfl

theorem aborted_onCourse {a : Stage} (n : Nat) (e : Err) (s : State) (h : a.atRest = false) :
    OnCourse a n (.next (s.aborted e)) := ⟨_, rfl, mayMove_unusable h, nofun, Nat.zero_le n⟩

/-! ## The stages -/

/-- A command of INIT has control of a stage: what a stage rests on. -/
def InStage (c : InitCmd) (s : State) : Prop :=
  s.op = .init c ∧ s.state = c.stage ∧ c.versionOk s.version ∧ (s.scopeOpen = true → s.params.csScope = .wholeHandshake)
    ∧ s.params.wf = true ∧ s.vpCnt ≤ s.params.nVp ∧ s.ocCnt ≤ s.params.nOc

theorem initRaise_onCourse {a : Stage} (hop : s.op = .init c) (hscope : s.scopeOpen = true → s.params.csScope = .wholeHandshake)
    (ha : a.atRest = false) (hmove : a.mayMove s.state = true) :
    OnCourse a (2 * closingCalls s.params) (.next (initRaise e s)) := by
  cases ho : s.scopeOpen
  case false => rw [initRaise_closed e ho]; exact aborted_onCourse _ e s ha
  case true =>
    rw [initRaise_open e ho]
    exact onCourse_of_init hop hmove (by simp [State.weight, State.callsLeft, hop, hscope ho, closingCalls, Micro.isPure])

theorem start_onCourse {a : Stage} (c : InitCmd) (hp : s.params.wf = true) (hmove : a.mayMove s.state = true) :
    OnCourse a (2 * (initCmdCalls s.params c + s.callsAfter c)) (.next (c.start s)) := by
  refine onCourse_of_init (c.start_op s) ((c.start_state s).symm ▸ hmove) ?_
  have hafter : (c.start s).callsAfter c = s.callsAfter c := by cases c <;> simp [State.callsAfter]
  have bounds := wf_bounds hp
  cases hscope : s.params.csScope
  case wholeHandshake =>
    have hm : (c.start s).micro = .readyXfer := by rw [InitCmd.start_whole hscope]; rfl
    have hin : (c.start s).callsInCmd = s.params.cmdCalls + c.shape.extraBytes := by
      rw [InitCmd.start_whole hscope]
      simp only [State.callsInCmd, beginExecCmd_micro, beginExecCmd_params, beginExecCmd_readyCnt, beginExecCmd_shape,
        Params.cmdCalls]
      omega
    rw [State.weight, callsLeft_command (c.start_op s) (by rw [hm]; rfl), hm, hin, hafter, InitCmd.start_params,
      initCmdCalls, ownScopeCalls_whole hscope]
    simp [Micro.isPure]
  case perCommand =>
    have hm : (c.start s).micro = .csLow := by rw [InitCmd.start_per hscope]
    simp only [State.weight, State.callsLeft, InitCmd.start_op, hm, hafter, InitCmd.start_params, initCmdCalls,
      ownScopeCalls_per hscope, Micro.isPure, Bool.toNat_false]
    omega

theorem endStages_onCourse {a : Stage} (hop : s.op = .init c) (hmove : a.mayMove s.state = true) :
    OnCourse a (2 * closingCalls s.params) (.next (endStages s)) := by
  unfold endStages
  split
  · next hscope =>
    exact onCourse_of_init hop hmove (by simp [State.weight, State.callsLeft, hop, hscope, closingCalls, Micro.isPure])
  · next hscope =>
    exact onCourse_of_init hop hmove (by simp [State.weight, State.callsLeft, hop, hscope, closingCalls, Micro.isPure])

theorem versionAttempt_onCourse (h : InStage .sendIfCond s) :
    OnCourse .versionProbe (2 * probeCalls s.params (s.params.nVp - s.vpCnt)) (versionAttempt s) := by
  obtain ⟨hop, hst, hv, hscope, hp, hvp, -⟩ := h
  have hmove : Stage.versionProbe.mayMove s.state = true := hst ▸ rfl
  by_cases hlast : s.vpCnt = s.params.nVp
  · rw [versionAttempt_last hlast]
    refine (initRaise_onCourse hop hscope rfl hmove).mono ?_
    have := crcOnOff_le_probeCalls s.params (s.params.nVp - s.vpCnt)
    have := readOcr_le_opCondCalls s.params s.params.nOc
    omega
  · rw [versionAttempt_eq hlast hv, show s.params.nVp - s.vpCnt = s.params.nVp - (s.vpCnt + 1) + 1 by omega, probeCalls_succ]
    exact start_onCourse (s := { s with vpCnt := s.vpCnt + 1 }) .sendIfCond hp hmove

theorem opCondIteration_onCourse (h : InStage .sdSendOpCond s) :
    OnCourse .opCondWait (2 * opCondCalls s.params (s.params.nOc - s.ocCnt)) (opCondIteration s) := by
  obtain ⟨hop, hst, hv, hscope, hp, -, hoc⟩ := h
  have hmove : Stage.opCondWait.mayMove s.state = true := hst ▸ rfl
  by_cases hlast : s.ocCnt = s.params.nOc
  · rw [opCondIteration_last hlast]
    refine (initRaise_onCourse hop hscope rfl hmove).mono ?_
    have := readOcr_le_opCondCalls s.params (s.params.nOc - s.ocCnt)
    omega
  · rw [opCondIteration_eq hlast hv, show s.params.nOc - s.ocCnt = s.params.nOc - (s.ocCnt + 1) + 1 by omega,
      opCondCalls_succ]
    refine (start_onCourse (s := { s with ocCnt := s.ocCnt + 1 }) .appCmd hp hmove).mono ?_
    simp only [State.callsAfter]
    omega

theorem enterCrcEnable_onCourse (v : CardVersion) (hp : s.params.wf = true) :
    OnCourse .versionProbe (2 * probeCalls s.params (s.params.nVp - s.vpCnt)) (enterCrcEnable v s) := by
  rw [enterCrcEnable_eq]
  refine (start_onCourse (s := { s with version := some v, state := .crcEnable }) .crcOnOff hp rfl).mono ?_
  exact Nat.mul_le_mul_left 2 (crcOnOff_le_probeCalls s.params _)

/-- Ready or not, the status of SD_SEND_OP_COND leads to the delay, to the end of the stages or to READ_OCR. -/
theorem judgeIdle_onCourse (h : InStage .sdSendOpCond s) :
    OnCourse .opCondWait (2 * s.callsAfter .sdSendOpCond) (judgeIdle s) := by
  obtain ⟨hop, hst, hv, -, hp, -, -⟩ := h
  have hread := readOcr_le_opCondCalls s.params (s.params.nOc - s.ocCnt)
  cases hidle : idleFlag s.status
  case true =>
    rw [judgeIdle_idle hidle]
    exact onCourse_of_init hop (hst ▸ rfl) (by simp [State.weight, State.callsLeft, hop, Micro.isPure, State.callsAfter])
  case false =>
    rw [judgeIdle_ready hidle]
    obtain ⟨v, hv⟩ := Option.isSome_iff_exists.mp hv
    cases v
    case v1 =>
      rw [enterCapacityProbe_v1 hv]
      refine (endStages_onCourse (by exact hop) rfl).mono ?_
      simp only [State.callsAfter]
      omega
    case v2 =>
      rw [enterCapacityProbe_v2 hv]
      refine (start_onCourse (s := { s with state := .capacityProbe }) .readOcr hp rfl).mono ?_
      simp only [State.callsAfter]
      omega

/-- Success of INIT's command: the stage goes on within the calls after it. -/
theorem stageOk_onCourse (h : InStage c s) : OnCourse c.stage (2 * s.callsAfter c) (stageOk c s) := by
  have ⟨hop, hst, hv, hscope, hp, hvp, hoc⟩ := h
  have bounds := wf_bounds hp
  cases c
  case goIdle =>
    show OnCourse .idle _ (enterVersionProbe s)
    rw [enterVersionProbe_eq hp hv]
    refine (start_onCourse (s := { s with state := .versionProbe, vpCnt := 1 }) .sendIfCond hp rfl).mono ?_
    have hfirst := probeCalls_succ s.params (s.params.nVp - 1)
    rw [Nat.sub_add_cancel (by omega)] at hfirst
    simp only [State.callsAfter]
    omega
  case sendIfCond =>
    show OnCourse .versionProbe _ (judgeEcho s)
    unfold judgeEcho
    split
    · exact enterCrcEnable_onCourse (s := { s with errCode := none }) .v2 hp
    · exact versionAttempt_onCourse h
  case crcOnOff =>
    show OnCourse .crcEnable _ (enterOpCondWait s)
    rw [enterOpCondWait_eq hp hv]
    refine (start_onCourse (s := { s with state := .opCondWait, ocCnt := 1 }) .appCmd hp rfl).mono ?_
    have hfirst := opCondCalls_succ s.params (s.params.nOc - 1)
    rw [Nat.sub_add_cancel (by omega)] at hfirst
    simp only [State.callsAfter]
    omega
  case appCmd =>
    show OnCourse .opCondWait _ (startCmd .sdSendOpCond s)
    rw [startCmd_eq (by exact hv)]
    refine (start_onCourse .sdSendOpCond hp (hst ▸ rfl)).mono ?_
    simp only [State.callsAfter]
    omega
  case sdSendOpCond => exact judgeIdle_onCourse h
  case readOcr => exact endStages_onCourse (by exact hop) (hst ▸ mayMove_self _)

/-- So it does on an error, caught or fatal. -/
theorem stageErr_onCourse (h : InStage c s) (e : Err) : OnCourse c.stage (2 * s.callsAfter c) (stageErr c e s) := by
  obtain ⟨hop, hst, -, hscope, hp, -⟩ := h
  by_cases hcaught : c = .sendIfCond ∧ e = .commandRejected .illegalCommand
  · obtain ⟨rfl, rfl⟩ := hcaught
    simp only [stageErr, and_self, if_true]
    exact enterCrcEnable_onCourse .v1 hp
  · rw [stageErr_fatal s hcaught]
    have := closingCalls_le_callsAfter s c
    exact (initRaise_onCourse hop hscope (stage_atRest c) (hst ▸ mayMove_self _)).mono (by omega)

/-! ## The parts of a command -/

/-- A command of INIT runs, and beyond its complete response there are this many calls at most: the restore of the command's own
scope, and what comes after it. -/
def InCmd (c : InitCmd) (beyond : Nat) (s : State) : Prop :=
  s.op = .init c ∧ s.state = c.stage ∧ c.versionOk s.version ∧ s.scopeOpen = true ∧ s.params.wf = true
    ∧ s.vpCnt ≤ s.params.nVp ∧ s.ocCnt ≤ s.params.nOc ∧ s.cmd.isSome = true
    ∧ ownScopeCalls s.params + s.callsAfter c = beyond

theorem CoreInv.inCmd (hi : CoreInv s) (hb : s.busy = true) (hop : s.op = .init c) (hm : s.micro.isCommand = true) :
    InCmd c (ownScopeCalls s.params + s.callsAfter c) s := by
  obtain ⟨-, hopen, hcmd, hst, hv, -⟩ := hi.initCommand hb hop hm
  exact ⟨hop, hst, hv, hopen, hi.params, hi.vpBound, hi.ocBound, hcmd, rfl⟩

theorem InCmd.weight (h : InCmd c beyond s) (hm : s.micro.isCommand = true) :
    s.weight = 2 * (s.callsInCmd + beyond) + s.micro.isPure.toNat := by
  obtain ⟨hop, -, -, -, -, -, -, -, rfl⟩ := h
  rw [State.weight, callsLeft_command hop hm, Nat.add_assoc]

theorem InCmd.inStage (h : InCmd c beyond s) (hscope : s.params.csScope = .wholeHandshake) : InStage c s := by
  obtain ⟨hop, hst, hv, -, hp, hvp, hoc, -⟩ := h
  exact ⟨hop, hst, hv, fun _ => hscope, hp, hvp, hoc⟩

/-- The command goes on. -/
theorem command_onCourse {n : Nat} (h : InCmd c beyond s) (hm : s.micro.isCommand = true)
    (hw : 2 * (s.callsInCmd + beyond) + s.micro.isPure.toNat ≤ n) : OnCourse c.stage n (.next s) := by
  have ⟨hop, hst, _⟩ := h
  exact (onCourse_stays hop hst).mono ((h.weight hm).trans_le hw)

/-- An error, or a result, comes to the restore of the command's own scope. -/
theorem restore_onCourse (h : InCmd c beyond s) (hscope : s.params.csScope = .perCommand) (inFlight : Option Err) :
    OnCourse c.stage (2 * beyond) (.next { s with micro := .csHigh inFlight }) := by
  obtain ⟨hop, hst, -, -, -, -, -, -, rfl⟩ := h
  refine (onCourse_stays (by exact hop) (by exact hst)).mono ?_
  simp only [State.weight, State.callsLeft, hop, hscope, Micro.isPure, ownScopeCalls_per hscope]
  exact le_rfl

theorem raise_onCourse (h : InCmd c beyond s) (e : Err) : OnCourse c.stage (2 * beyond) (raise e s) := by
  have ⟨hop, _, _, _, _, _, _, _, hbeyond⟩ := h
  cases hscope : s.params.csScope
  case wholeHandshake =>
    rw [raise_init_whole e hop hscope]
    exact (stageErr_onCourse (h.inStage hscope) e).mono (by omega)
  case perCommand => rw [raise_init_per e hop hscope]; exact restore_onCourse h hscope _

theorem cmdOk_onCourse (h : InCmd c beyond s) (r : CmdResult) : OnCourse c.stage (2 * beyond) (cmdOk r s) := by
  have ⟨hop, _, _, _, _, _, _, _, hbeyond⟩ := h
  cases hscope : s.params.csScope
  case wholeHandshake =>
    rw [cmdOk_init_whole r hop hscope]
    exact (stageOk_onCourse (h.inStage hscope)).mono (by omega)
  case perCommand => rw [cmdOk_init_per r hop hscope]; exact restore_onCourse h hscope _

theorem receive_onCourse (h : InCmd c beyond s) (status : Byte) (extra : Option Quad) :
    OnCourse c.stage (2 * beyond) (receive status extra s) := by
  unfold receive
  dsimp only
  split
  · exact raise_onCourse (by exact h) _
  · exact cmdOk_onCourse (by exact h) _

theorem pollAttempt_onCourse (h : InCmd c beyond s) (hr : s.respCnt ≤ s.params.nResp) :
    OnCourse c.stage (2 * (s.params.nResp - s.respCnt + s.shape.extraBytes + beyond)) (pollAttempt s) := by
  unfold pollAttempt
  split
  · exact (raise_onCourse h _).mono (by omega)
  · refine command_onCourse (by exact h) rfl ?_
    show 2 * (s.params.nResp - (s.respCnt + 1) + 1 + s.shape.extraBytes + beyond) + 0 ≤ _
    omega

theorem extraBytes_of_readsExtra {sh : Shape} {status : Byte} (h : readsExtra sh status = true) : sh.extraBytes = 4 := by
  obtain ⟨hne, -⟩ := readsExtra_iff.mp h
  cases sh
  case r1 => exact absurd rfl hne
  case r3 | r7 => rfl

theorem pollByte_onCourse (b : Byte) (h : InCmd c beyond s) (hr : s.respCnt ≤ s.params.nResp) :
    OnCourse c.stage (2 * (s.params.nResp - s.respCnt + s.shape.extraBytes + beyond) + 1) (pollByte b s) := by
  unfold pollByte
  split
  · exact (pollAttempt_onCourse h hr).mono (Nat.le_succ _)
  · unfold statusByte
    dsimp only
    split
    · next hextra =>
      have hfour := extraBytes_of_readsExtra hextra
      refine command_onCourse (by exact h) rfl ?_
      show 2 * (4 + beyond) + 0 ≤ _
      omega
    · refine command_onCourse (by exact h) rfl ?_
      show 2 * (0 + beyond) + 1 ≤ _
      omega

/-- Inside EXEC_CMD the ready-wait is followed by the frame. -/
theorem readyOk_command (hc : s.cmd.isSome = true) : readyOk s = { s with errCode := none, micro := .sendFrame } := by
  unfold readyOk
  split
  · next hnone => rw [hnone] at hc; cases hc
  · rfl

theorem readyByte_onCourse (b : Byte) (h : InCmd c beyond s) :
    OnCourse c.stage (2 * (2 * (s.params.nReady - s.readyCnt) + 1 + s.params.nResp + s.shape.extraBytes + beyond) + 1)
      (readyByte b s) := by
  have ⟨_, _, _, _, _, _, _, hcmd, _⟩ := h
  unfold readyByte
  split
  · rw [readyOk_command hcmd]
    refine command_onCourse (by exact h) rfl ?_
    show 2 * (1 + s.params.nResp + s.shape.extraBytes + beyond) + 1 ≤ _
    omega
  · split
    · exact (raise_onCourse h _).mono (by omega)
    · refine command_onCourse (by exact h) rfl ?_
      show 2 * (2 * (s.params.nReady - s.readyCnt) + 1 + s.params.nResp + s.shape.extraBytes + beyond) + 0 ≤ _
      omega

theorem extraByte_onCourse (k : Fin 4) (b : Byte) (h : InCmd c beyond s) :
    OnCourse c.stage (2 * (3 - k + beyond) + 1) (.next (extraByte k b s)) := by
  unfold extraByte
  dsimp only
  split
  · refine command_onCourse (by exact h) rfl ?_
    show 2 * (4 - (k + 1) + beyond) + 0 ≤ _
    omega
  · refine command_onCourse (by exact h) rfl ?_
    show 2 * (0 + beyond) + 1 ≤ _
    omega

/-! ## The steps -/

/-- The step of `s` is on INIT's course, and it lessens the weight. -/
def StepsOn (s : State) : Prop := ∃ n, n < s.weight ∧ OnCourse s.state n (step s)

/-- A step inside a command. -/
theorem step_command_stepsOn (hi : CoreInv s) (hb : s.busy = true) (hop : s.op = .init c) (hm : s.micro.isCommand = true)
    (ha : pendingCall s ≠ none → s.answers ≠ []) : StepsOn s := by
  obtain ⟨beyond, h⟩ : ∃ n, InCmd c n s := ⟨_, hi.inCmd hb hop hm⟩
  have ⟨_, hst, hv, hopen, hp, hvp, hoc, hcmd, hbeyond⟩ := h
  have hpoint := running_cp (hi.running hb) hm
  have answered (hc : pendingCall s ≠ none) : ∃ a rest, s.answers = a :: rest := List.exists_cons_of_ne_nil (ha hc)
  have raised {n : Nat} {u : State} {e : Err} (hu : InCmd c beyond u) (hn : 2 * beyond < n) :
      ∃ m, m < n ∧ OnCourse c.stage m (raise e u) := ⟨_, hn, raise_onCourse hu _⟩
  unfold StepsOn
  rw [hst, h.weight hm]
  cases hmicro : s.micro <;> simp only [hmicro, Micro.isCommand, Bool.false_eq_true] at hm <;>
    simp only [CommandPoint, hmicro] at hpoint <;>
    simp only [State.callsInCmd, hmicro, Micro.isPure, Bool.toNat_false, Bool.toNat_true]
  case readyXfer =>
    obtain ⟨a, rest, ha⟩ := answered (by simp [pendingCall, hmicro])
    rw [step_readyXfer hb hmicro ha]
    split
    · exact raised (by exact h) (by omega)
    · refine ⟨_, ?_, readyByte_onCourse (beyond := beyond) _ (by exact h)⟩
      show 2 * (2 * (s.params.nReady - s.readyCnt) + 1 + s.params.nResp + s.shape.extraBytes + beyond) + 1 < _
      omega
  case readyDelay =>
    obtain ⟨a, rest, ha⟩ := answered (by simp [pendingCall, hmicro])
    rw [step_readyDelay hb hmicro ha]
    refine ⟨_, ?_, command_onCourse (beyond := beyond) (by exact h) rfl le_rfl⟩
    show 2 * (2 * (s.params.nReady - (s.readyCnt + 1)) + 2 + s.params.nResp + s.shape.extraBytes + beyond) + 0 < _
    omega
  case sendFrame =>
    obtain ⟨operands, hcmd⟩ := Option.isSome_iff_exists.mp hcmd
    rw [step_sendFrame hb hmicro hcmd]
    refine ⟨_, ?_, command_onCourse (beyond := beyond) ⟨hop, hst, hv, hopen, hp, hvp, hoc, rfl, hbeyond⟩ rfl le_rfl⟩
    exact Nat.lt_succ_self _
  case frameWrite =>
    obtain ⟨a, rest, ha⟩ := answered (by simp [pendingCall, hmicro])
    rw [step_frameWrite hb hmicro ha]
    split
    · exact raised (by exact h) (by omega)
    · refine ⟨_, ?_, pollAttempt_onCourse (beyond := beyond) (by exact h) (Nat.zero_le _)⟩
      show 2 * (s.params.nResp - 0 + s.shape.extraBytes + beyond) < _
      omega
  case pollXfer =>
    obtain ⟨a, rest, ha⟩ := answered (by simp [pendingCall, hmicro])
    rw [step_pollXfer hb hmicro ha]
    split
    · exact raised (by exact h) (by omega)
    · obtain ⟨-, -, hcnt⟩ := hpoint
      refine ⟨_, ?_, pollByte_onCourse (beyond := beyond) _ (by exact h) hcnt⟩
      show 2 * (s.params.nResp - s.respCnt + s.shape.extraBytes + beyond) + 1 < _
      omega
  case extraXfer k =>
    obtain ⟨a, rest, ha⟩ := answered (by simp [pendingCall, hmicro])
    rw [step_extraXfer hb hmicro ha]
    split
    · exact raised (by exact h) (by omega)
    · exact ⟨_, by omega, extraByte_onCourse (beyond := beyond) k _ (by exact h)⟩
  case respond =>
    obtain ⟨-, hne⟩ := hpoint
    rw [step_respond hb hmicro hne]
    exact ⟨_, by omega, receive_onCourse (beyond := beyond) h _ _⟩

theorem CoreInv.initPoint (hi : CoreInv s) (hb : s.busy = true) (hop : s.op = .init c) : InitPoint c s := by
  have hr := hi.running hb
  simp only [Running, hop] at hr
  exact hr.1

/-- The assertion of a scope. -/
theorem step_csLow_stepsOn (hi : CoreInv s) (hb : s.busy = true) (hop : s.op = .init c) (hm : s.micro = .csLow)
    {a : Answer} {rest : List Answer} (ha : s.answers = a :: rest) : StepsOn s := by
  have bounds := wf_bounds hi.params
  have hpoint := hi.initPoint hb hop
  simp only [InitPoint, hm] at hpoint
  obtain ⟨hclosed, hv, hstage⟩ := hpoint
  have hw : s.weight = 2 * (1 + (s.params.cmdCalls + c.shape.extraBytes) + ownScopeCalls s.params + s.callsAfter c) := by
    simp only [State.weight, State.callsLeft, hop, hm, Micro.isPure, Bool.toNat_false, Nat.add_zero]
  unfold StepsOn
  rw [hw]
  cases hscope : s.params.csScope <;> simp only [hscope] at hstage
  case wholeHandshake =>
    obtain ⟨rfl, hst⟩ := hstage
    rw [step_csLow hb hm ha]
    cases a.fault
    case true =>
      rw [csLowAnswered_whole_fault (by exact hop) (by exact hscope) (by exact hclosed)]
      exact ⟨0, by omega, aborted_onCourse _ _ _ (by rw [hst]; rfl)⟩
    case false =>
      rw [csLowAnswered_whole (by exact hop) (by exact hscope) (by exact hv)]
      refine ⟨_, ?_, start_onCourse .goIdle (by exact hi.params) (by rw [hst]; rfl)⟩
      show 2 * (ownScopeCalls s.params + (s.params.cmdCalls + InitCmd.goIdle.shape.extraBytes) + ownScopeCalls s.params
        + s.callsAfter .goIdle) < _
      have hown := ownScopeCalls_whole hscope
      omega
  case perCommand =>
    rw [hstage, step_csLow hb hm ha]
    cases a.fault
    case true =>
      simp only [csLowAnswered, hop, hscope, if_true]
      exact ⟨2 * s.callsAfter c, by omega,
        stageErr_onCourse (by exact ⟨rfl, hstage, hv, by simp [hclosed], hi.params, hi.vpBound, hi.ocBound⟩) _⟩
    case false =>
      rw [csLowAnswered_per (by exact hop) (by exact hscope) (by exact hv)]
      refine ⟨_, ?_, command_onCourse ⟨hop, hstage, hv, rfl, hi.params, hi.vpBound, hi.ocBound, rfl, rfl⟩ rfl le_rfl⟩
      show 2 * (2 * (s.params.nReady - 1) + 2 + s.params.nResp + c.shape.extraBytes
        + (ownScopeCalls s.params + s.callsAfter c)) + 0 < _
      simp only [Params.cmdCalls]
      omega

/-- The restore of the handshake's scope is followed by the Ready actions, or it ends INIT with the error in flight or its own. -/
theorem step_restore_whole {inFlight : Option Err} (hb : s.busy = true) (hop : s.op = .init c)
    (hscope : s.params.csScope = .wholeHandshake) (hm : s.micro = .csHigh inFlight) {a : Answer} {rest : List Answer}
    (ha : s.answers = a :: rest) :
    step s = match scopeError inFlight a.fault with
      | none => .next { s.restored a rest with micro := .finish }
      | some e => .next ((s.restored a rest).aborted e) := by
  rw [step_csHigh hb hm ha]
  simp only [csHighAnswered, hop, hscope]
  cases hf : a.fault <;> cases scopeError inFlight _ <;>
    simp [State.restored, State.aborted, abortInit, endOp, csAfter, hf, hop]

/-- The restore of a scope. -/
theorem step_csHigh_stepsOn {inFlight : Option Err} (hi : CoreInv s) (hb : s.busy = true) (hop : s.op = .init c)
    (hm : s.micro = .csHigh inFlight) {a : Answer} {rest : List Answer} (ha : s.answers = a :: rest) : StepsOn s := by
  have hpoint := hi.initPoint hb hop
  simp only [InitPoint, hm] at hpoint
  obtain ⟨-, -, hpoint⟩ := hpoint
  unfold StepsOn
  cases hscope : s.params.csScope <;> simp only [hscope] at hpoint
  case wholeHandshake =>
    obtain ⟨hrest, -⟩ := hpoint
    have hw : s.weight = 4 := by simp [State.weight, State.callsLeft, hop, hm, hscope, Micro.isPure]
    rw [hw, step_restore_whole hb hop hscope hm ha]
    cases scopeError inFlight a.fault with
    | some e => exact ⟨0, by omega, aborted_onCourse _ e _ hrest⟩
    | none =>
      refine ⟨2, by omega, onCourse_of_init (by exact hop) (mayMove_self _) ?_⟩
      simp [State.weight, State.callsLeft, State.restored, hop, Micro.isPure]
  case perCommand =>
    obtain ⟨hstage, hv⟩ := hpoint
    have hw : s.weight = 2 * (1 + s.callsAfter c) := by simp [State.weight, State.callsLeft, hop, hm, hscope, Micro.isPure]
    have hin : InStage c (s.restored a rest) := ⟨hop, hstage, hv, nofun, hi.params, hi.vpBound, hi.ocBound⟩
    rw [hw, hstage, step_restore_per hb hop hscope hm ha]
    refine ⟨2 * s.callsAfter c, by omega, ?_⟩
    cases scopeError inFlight a.fault with
    | some e => exact stageErr_onCourse hin e
    | none => exact stageOk_onCourse hin

/-- PowerUp's calls. -/
theorem step_powerUp_stepsOn (hi : CoreInv s) (hb : s.busy = true) (hop : s.op = .init c)
    (hm : s.micro = .powerUpDelay ∨ s.micro = .powerUpCsHigh ∨ s.micro = .powerUpWrite)
    {a : Answer} {rest : List Answer} (ha : s.answers = a :: rest) : StepsOn s := by
  have hpoint : c = .goIdle ∧ s.state = .powerUp ∧ s.scopeOpen = false ∧ s.version = none := by
    have hpoint := hi.initPoint hb hop
    rcases hm with hm | hm | hm <;> simp only [InitPoint, hm] at hpoint <;> tauto
  obtain ⟨rfl, hst, hclosed, hv⟩ := hpoint
  unfold StepsOn
  rw [hst]
  rcases hm with hm | hm | hm
  · rw [step_powerUpDelay hb hm ha]
    refine ⟨_, ?_, onCourse_stays (by exact hop) (by exact hst)⟩
    simp [State.weight, State.callsLeft, hop, hm, Micro.isPure, State.callsAfter]
  · rw [step_powerUpCsHigh hb hm ha]
    cases a.fault
    case true =>
      simp only [powerUpCsAnswered, if_true]
      rw [initRaise_closed _ (by exact hclosed)]
      exact ⟨0, by simp [State.weight, State.callsLeft, hop, hm], aborted_onCourse _ _ _ rfl⟩
    case false =>
      refine ⟨_, ?_, onCourse_stays (by exact hop) (by exact hst)⟩
      simp [powerUpCsAnswered, State.weight, State.callsLeft, hop, hm, Micro.isPure, State.callsAfter]
  · have hw : s.weight = 2 * (1 + (1 + (s.params.cmdCalls + InitCmd.goIdle.shape.extraBytes) + ownScopeCalls s.params
        + s.callsAfter .goIdle)) := by
      simp only [State.weight, State.callsLeft, hop, hm, Micro.isPure, Bool.toNat_false, Nat.add_zero]
    rw [hw, step_powerUpWrite hb hm ha]
    cases a.fault
    case true =>
      simp only [powerUpWritten, if_true]
      rw [initRaise_closed _ (by exact hclosed)]
      exact ⟨0, by omega, aborted_onCourse _ _ _ rfl⟩
    case false =>
      cases hscope : s.params.csScope
      case wholeHandshake =>
        rw [powerUpWritten_whole (by exact hscope)]
        refine ⟨_, ?_, onCourse_stays (by exact hop) (by exact hst)⟩
        simp [State.weight, State.callsLeft, hop, Micro.isPure, State.callsAfter]
      case perCommand =>
        rw [powerUpWritten_per (by exact hscope) (by exact hv)]
        refine ⟨_, ?_, start_onCourse .goIdle (by exact hi.params) rfl⟩
        show 2 * (ownScopeCalls s.params + (s.params.cmdCalls + InitCmd.goIdle.shape.extraBytes) + ownScopeCalls s.params
          + s.callsAfter .goIdle) < _
        have hown := ownScopeCalls_per hscope
        omega

/-- The delay of OpCondWait. -/
theorem step_opCondDelay_stepsOn (hi : CoreInv s) (hb : s.busy = true) (hop : s.op = .init c) (hm : s.micro = .opCondDelay)
    {a : Answer} {rest : List Answer} (ha : s.answers = a :: rest) : StepsOn s := by
  have hpoint := hi.initPoint hb hop
  simp only [InitPoint, hm] at hpoint
  obtain ⟨rfl, hst, hv, hscope⟩ := hpoint
  have hw : s.weight = 2 * (1 + opCondCalls s.params (s.params.nOc - s.ocCnt)) := by
    simp only [State.weight, State.callsLeft, hop, hm, Micro.isPure, Bool.toNat_false, Nat.add_zero]
  unfold StepsOn
  rw [hst, hw, step_opCondDelay hb hm ha]
  exact ⟨2 * opCondCalls s.params (s.params.nOc - s.ocCnt), by omega,
    opCondIteration_onCourse (by exact ⟨hop, hst, hv, hscope.mp, hi.params, hi.vpBound, hi.ocBound⟩)⟩

/-- The Ready actions. -/
theorem step_finish_stepsOn (hi : CoreInv s) (hb : s.busy = true) (hop : s.op = .init c) (hm : s.micro = .finish) :
    StepsOn s := by
  have hpoint := hi.initPoint hb hop
  simp only [InitPoint, hm] at hpoint
  obtain ⟨hst, -, hcap⟩ := hpoint
  obtain ⟨k, hcap⟩ := Option.isSome_iff_exists.mp hcap
  refine ⟨0, by simp [State.weight, State.callsLeft, hop, hm], ?_⟩
  rw [step_finish hb hm, hst]
  simp only [finishInit, hcap, readClass_some]
  exact ⟨_, rfl, rfl, nofun, Nat.zero_le 0⟩

/-- Every step of INIT whose call, where one is out, is answered. -/
theorem stepsOn (hi : CoreInv s) (hb : s.busy = true) (hop : s.op = .init c) (ha : pendingCall s ≠ none → s.answers ≠ []) :
    StepsOn s := by
  have answered (hc : pendingCall s ≠ none) : ∃ a rest, s.answers = a :: rest := List.exists_cons_of_ne_nil (ha hc)
  cases hm : s.micro
  case readyXfer | readyDelay | sendFrame | frameWrite | pollXfer | extraXfer | respond =>
    exact step_command_stepsOn hi hb hop (by rw [hm]; rfl) ha
  case finish => exact step_finish_stepsOn hi hb hop hm
  case idle =>
    have hpoint := hi.initPoint hb hop
    simp [InitPoint, CommandPoint, hm] at hpoint
  all_goals obtain ⟨a, rest, ha⟩ := answered (by simp [pendingCall, hm])
  case csLow => exact step_csLow_stepsOn hi hb hop hm ha
  case csHigh => exact step_csHigh_stepsOn hi hb hop hm ha
  case powerUpDelay => exact step_powerUp_stepsOn hi hb hop (.inl hm) ha
  case powerUpCsHigh => exact step_powerUp_stepsOn hi hb hop (.inr (.inl hm)) ha
  case powerUpWrite => exact step_powerUp_stepsOn hi hb hop (.inr (.inr hm)) ha
  case opCondDelay => exact step_opCondDelay_stepsOn hi hb hop hm ha

/-! ## INIT ends -/

/-- INIT ends from here, in Ready or in Unusable, within the calls that are left. -/
def InitEnds (s : State) : Prop :=
  ∃ (n : Nat) (t : State) (new : List Event), runs n s = .next t ∧ t.busy = false ∧ (t.state = .ready ∨ t.state = .unusable)
    ∧ t.trace = s.trace ++ new ∧ new.length ≤ s.callsLeft

theorem callsLeft_pos (hop : s.op = .init c) (hc : pendingCall s ≠ none) : 0 < s.callsLeft := by
  simp only [State.callsLeft, State.callsInCmd, hop]
  cases hm : s.micro <;> simp only [pendingCall, hm, ne_eq, not_true, reduceCtorEq, not_false_eq_true] at hc ⊢
  case csHigh => cases s.params.csScope <;> simp only <;> omega
  all_goals omega

/-- A step that lessens the weight takes at most one answer and records at most one event, each of them out of the calls left. -/
theorem step_callsLeft (hb : s.busy = true) (hop : s.op = .init c) (ha : pendingCall s ≠ none → s.answers ≠ [])
    (h : step s = .next t) (hw : t.weight < s.weight) :
    ∃ new, t.trace = s.trace ++ new ∧ new.length + t.callsLeft ≤ s.callsLeft
      ∧ s.answers.length ≤ t.answers.length + new.length := by
  simp only [State.weight] at hw
  cases hc : pendingCall s with
  | some call =>
    obtain ⟨a, rest, ha⟩ := List.exists_cons_of_ne_nil (ha (by simp [hc]))
    rw [step_of_pendingCall hb hc, ha] at h
    have hout := resume_outside (s := { s with answers := rest }) hc h
    have hpure : s.micro.isPure = false := by
      cases hm : s.micro <;> simp [pendingCall, hm, Micro.isPure] at hc ⊢
    rw [hpure, Bool.toNat_false] at hw
    refine ⟨[call.event a], congrArg Outside.trace hout, by rw [List.length_singleton]; omega, ?_⟩
    rw [ha, show t.answers = rest from congrArg Outside.answers hout]
    exact le_rfl
  | none =>
    rcases step_pure_outside hb hc h with hout | ⟨hm, -, hout⟩
    · have hpure := Bool.toNat_le s.micro.isPure
      refine ⟨[], (congrArg Outside.trace hout).trans (List.append_nil _).symm, by rw [List.length_nil]; omega, ?_⟩
      rw [show t.answers = s.answers from congrArg Outside.answers hout]
      exact le_rfl
    · have hleft : s.callsLeft = 1 := by simp [State.callsLeft, hop, hm]
      simp only [hm, Micro.isPure, Bool.toNat_false] at hw
      refine ⟨[.spd], congrArg Outside.trace hout, by rw [List.length_singleton]; omega, ?_⟩
      rw [show t.answers = s.answers from congrArg Outside.answers hout]
      exact Nat.le_succ _

/-- The step that ends INIT leaves it in Ready or in Unusable. -/
theorem ready_or_unusable_of_ends (hi : CoreInv s) (hb : s.busy = true) (hop : s.op = .init c) (h : step s = .next t)
    (hend : t.busy = false) : t.state = .ready ∨ t.state = .unusable := by
  rcases oneResultPerOperation s t hi h with ⟨-, hbusy⟩ | ⟨r, -, -, -, -, -, hrelease, hresult⟩
  · rw [hbusy hb] at hend; cases hend
  · obtain ⟨-, -, -, hready, hunusable⟩ := hresult (hrelease.mpr ⟨c, hop⟩)
    cases hr : r.ok
    · exact .inr (hunusable hr).1
    · exact .inl (hready hr).1

theorem InitEnds.of_step {new : List Event} (h : step s = .next t) (htrace : t.trace = s.trace ++ new)
    (hnew : new.length + t.callsLeft ≤ s.callsLeft) (ht : InitEnds t) : InitEnds s := by
  obtain ⟨n, u, more, hrun, hb, hstate, hmore, hlen⟩ := ht
  refine ⟨n + 1, u, new ++ more, (runs_step h n).trans hrun, hb, hstate, by rw [hmore, htrace, List.append_assoc], ?_⟩
  rw [List.length_append]
  omega

/-- By induction on the weight: every step lessens it, and pays for its call out of the calls left. -/
theorem initEnds (hi : CoreInv s) (hb : s.busy = true) (hop : s.op = .init c) (ha : s.callsLeft ≤ s.answers.length) :
    InitEnds s := by
  induction hn : s.weight using Nat.strong_induction_on generalizing s c with
  | _ n ih =>
    subst hn
    have hanswered : pendingCall s ≠ none → s.answers ≠ [] := fun hc =>
      List.ne_nil_of_length_pos ((callsLeft_pos hop hc).trans_le ha)
    obtain ⟨m, hm, t, hstep, -, hinit, hle⟩ := stepsOn hi hb hop hanswered
    have hw := hle.trans_lt hm
    obtain ⟨new, htrace, hnew, hans⟩ := step_callsLeft hb hop hanswered hstep hw
    refine InitEnds.of_step hstep htrace hnew ?_
    cases hbt : t.busy
    case true =>
      obtain ⟨c', hop'⟩ := hinit hbt
      exact ih t.weight hw (stepKeepsTheInvariant s t hi hstep) hbt hop' (by omega) rfl
    case false =>
      exact ⟨0, t, [], rfl, hbt, ready_or_unusable_of_ends hi hb hop hstep hbt, (List.append_nil _).symm, Nat.zero_le _⟩

theorem poweringUp_inv (speedup : Bool) (hp : s.params.wf = true) : CoreInv (s.poweringUp speedup) :=
  coreInv_busy ⟨hp, nofun, Nat.zero_le _, Nat.zero_le _, Nat.zero_le _, Nat.zero_le _⟩ rfl
    ⟨⟨rfl, rfl, rfl, rfl, nofun⟩, rfl, rfl⟩

/-- R186's bound is what is left at INIT's entry. -/
theorem callsLeft_poweringUp (s : State) (speedup : Bool) : (s.poweringUp speedup).callsLeft = s.params.initCalls := by
  have hleft : (s.poweringUp speedup).callsLeft = 3 + (1 + (s.params.cmdCalls + InitCmd.goIdle.shape.extraBytes)
    + ownScopeCalls s.params + probeCalls s.params s.params.nVp) := rfl
  rw [hleft]
  cases hscope : s.params.csScope <;>
    simp only [probeCalls, opCondCalls, initCmdCalls, closingCalls, Params.initCalls, Params.wholeCalls, Params.initCmds,
      InitCmd.shape, Shape.extraBytes, hscope]
  case wholeHandshake =>
    simp only [ownScopeCalls_whole hscope]
    ring_nf
  case perCommand =>
    simp only [ownScopeCalls_per hscope]
    rw [eq_comm, Nat.sub_eq_iff_eq_add (by omega)]
    ring

/-! ## The statements -/

theorem mayMove_powerUp {a : Stage} (h : a.atRest = true) : a.mayMove .powerUp = true := by
  revert h
  cases a <;> decide

/-- INIT's entry goes from a stage at rest to PowerUp, and no other step at rest but a reset moves `state`. -/
theorem step_rest_mayMove (hi : CoreInv s) (hb : s.busy = false) (h : step s = .next t) (hreset : s.host.head? ≠ some .reset) :
    s.state.mayMove t.state = true := by
  have hrest := hi.rest hb
  rcases step_rest_proceeds hi hb h with hp | ⟨hh, -⟩ | ⟨r, speedup, hh, hd, -⟩
  · rw [show t.state = s.state from congrArg Handshake.state (hp.keepsHandshake hrest.notInit)]
    exact mayMove_self _
  · exact absurd hh hreset
  · obtain ⟨rest, hhost⟩ := List.head?_eq_some_iff.mp hh
    rw [step_request hb hhost hd, exec_init] at h
    cases h
    obtain ⟨-, -, -, -, -, hstage⟩ := hrest
    exact mayMove_powerUp hstage

/-- Settles O45: at rest by `step_rest_mayMove`; busy, an answered step of INIT is on its course (`stepsOn`), and no other operation
moves `state`. -/
theorem transitionTable : Obligations.TransitionTable := by
  intro s t hi h hreset
  cases hb : s.busy
  case false => exact step_rest_mayMove hi hb h (hreset hb)
  case true =>
    by_cases hinit : ∃ c, s.op = .init c
    case neg =>
      rw [(onlyInitWritesTheHandshakeRegisters s t hi h (by simpa using hinit) (by simp [hb])).1]
      exact mayMove_self _
    case pos =>
      obtain ⟨c, hop⟩ := hinit
      by_cases ha : pendingCall s ≠ none → s.answers ≠ []
      · obtain ⟨n, -, u, hu, hmove, -⟩ := stepsOn hi hb hop ha
        cases hu.symm.trans h
        exact hmove
      · push Not at ha
        obtain ⟨hc, ha⟩ := ha
        obtain ⟨call, hc⟩ := Option.ne_none_iff_exists'.mp hc
        rw [step_of_pendingCall hb hc, ha] at h
        cases h
        exact mayMove_self _

/-- Settles O44: at INIT's entry R186's bound is left (`callsLeft_poweringUp`), and INIT ends within the calls left (`initEnds`). -/
theorem initTerminates : Obligations.InitTerminates := by
  intro s u speedup hp _ hu ha
  cases (exec_init s speedup).symm.trans hu
  have hleft := callsLeft_poweringUp s speedup
  obtain ⟨n, t, new, hrun, hb, hstate, htrace, hlen⟩ :=
    initEnds (poweringUp_inv speedup hp) rfl rfl (hleft.trans_le ha)
  exact ⟨n, t, new, hrun, hb, hstate, htrace, hlen.trans_eq hleft⟩

end Sys2Proof.Machine

/-! PROOFS. INIT of a card that passes (44_init_fsm.md R160 to R182, R187), from stage to stage. `Comes` is how far INIT has come
when it starts a command, `Answered` the same at the command's complete response, `Classified` at the end of the stages. There is a
rule for a command and one for every answer of a stage, and an induction over the attempts and one over the iterations. -/

namespace Sys2Proof.Machine

variable {s t : State} {speedup : Bool} {c : InitCmd} {r : Reply} {echo : Option Quad} {handshake : Handshake}
  {events : List Event} {rest : List Answer}

/-! ## How far INIT has come -/

/-- Chip-select between the commands of INIT: the scope of the handshake is open, or none is. -/
def State.betweenCommands (s : State) : Prop :=
  match s.params.csScope with
  | .wholeHandshake => s.scopeOpen = true ∧ s.csLevel = .low
  | .perCommand => s.scopeOpen = false ∧ s.csLevel = .high

/-- INIT, entered from `s`, starts its command `c`. -/
def Comes (s : State) (speedup : Bool) (c : InitCmd) (handshake : Handshake) (events : List Event) (rest : List Answer) : Prop :=
  ∃ n t, runs n (s.poweringUp speedup) = .next (c.start t) ∧ Reached s handshake events rest t ∧ t.betweenCommands

/-- The reply to its command `c` comes to the command's stage. -/
def Answered (s : State) (speedup : Bool) (c : InitCmd) (r : Reply) (echo : Option Quad) (handshake : Handshake)
    (events : List Event) (rest : List Answer) : Prop :=
  ∃ n t, runs n (s.poweringUp speedup) = judged c r.status t ∧ Reached s handshake events rest t ∧ t.betweenCommands
    ∧ t.op = .init c ∧ t.status = r.status ∧ ∀ q, echo = some q → t.extra = q

/-- INIT is done with its stages. -/
def Classified (s : State) (speedup : Bool) (handshake : Handshake) (events : List Event) (rest : List Answer) : Prop :=
  ∃ n t, runs n (s.poweringUp speedup) = .next (endStages t) ∧ Reached s handshake events rest t ∧ t.betweenCommands
    ∧ ∃ c, t.op = .init c

theorem Reached.trans {u : State} {handshake' : Handshake} {events' : List Event} {rest' : List Answer}
    (h : Reached s handshake events rest t) (h' : Reached t handshake' events' rest' u) :
    Reached s handshake' (events ++ events') rest' u where
  busy := h'.busy
  errCode := h'.errCode
  handshake := h'.handshake
  outside := by
    have hout := h.outside
    simp only [State.outside, Outside.mk.injEq] at hout
    obtain ⟨hparams, hhost, -, htrace⟩ := hout
    rw [h'.outside, hparams, hhost, htrace, List.append_assoc]
  rsp := h'.rsp.trans h.rsp

theorem Reached.congr {handshake' : Handshake} {events' : List Event} (h : Reached s handshake events rest t)
    (hh : handshake = handshake') (he : events = events') : Reached s handshake' events' rest t := hh ▸ he ▸ h

/-! ## A command and its reply -/

theorem initAnswers_eq (p : Params) (r : Reply) (echo : Option Quad) :
    initAnswers p r echo = ownScope p Answer.done ++ r.answers echo ++ ownScope p Answer.done := by
  cases h : p.csScope <;> simp [initAnswers, ownScope, h]

theorem initCmdEvents_eq (p : Params) (v : Option CardVersion) (c : InitCmd) (r : Reply) (echo : Option Quad) :
    InitCmd.events p v c r echo = ownScope p (.cs .low true) ++ Reply.events p (c.index p) (c.arg p v) r echo
      ++ ownScope p (.cs .high true) := by
  cases h : p.csScope <;> simp [InitCmd.events, ownScope, h]

/-- An echo stands in the response exactly where the response has extra bytes. -/
theorem echoOf_getD {sh : Shape} {status : Byte} (h : echo.isSome = readsExtra sh status) (q : Quad) :
    echoOf sh status (echo.getD q) = echo := by
  unfold echoOf
  rw [← h]
  cases echo <;> rfl

/-- INIT at the first exchange of its command `c`, the scope open. -/
def State.inCommand (s : State) (c : InitCmd) (rest : List Answer) : State :=
  beginExecCmd (c.index s.params) (c.arg s.params s.version) c.shape { s with
    op := .init c, csLevel := .low, scopeOpen := true, answers := rest
    trace := s.trace ++ ownScope s.params (.cs .low true) }

/-- From its start a command comes to its first exchange, under `PerCommand` through the assertion of its scope (R161). -/
theorem runs_start (hb : t.busy = true) (ha : t.answers = ownScope t.params Answer.done ++ rest) (hv : c.versionOk t.version)
    (hbetween : t.betweenCommands) : ∃ n, runs n (c.start t) = .next (t.inCommand c rest) := by
  unfold State.betweenCommands at hbetween
  unfold State.inCommand
  cases hscope : t.params.csScope <;> simp only [hscope] at hbetween <;> obtain ⟨hopen, hlevel⟩ := hbetween
  case wholeHandshake =>
    rw [ownScope_whole hscope] at ha ⊢
    refine ⟨0, (runs_zero _).trans (congrArg _ ((InitCmd.start_whole hscope).trans ?_))⟩
    simp only [← hopen, ← hlevel, ← ha.trans (List.nil_append _), List.append_nil]
  case perCommand =>
    rw [ownScope_per hscope] at ha ⊢
    refine ⟨1, ?_⟩
    rw [InitCmd.start_per hscope, runs_single]
    refine (step_csLow (s := { t with op := .init c, micro := .csLow }) hb rfl ha).trans ?_
    exact csLowAnswered_per (by exact rfl) (by exact hscope) (by exact hv)

theorem Reached.inCommand (h : Reached s handshake events (ownScope s.params Answer.done ++ rest) t) (c : InitCmd) :
    Reached s handshake (events ++ ownScope s.params (.cs .low true)) rest (t.inCommand c rest) := by
  refine h.trans ⟨h.busy, h.errCode, h.handshake, ?_, rfl⟩
  simp [State.outside, State.inCommand, h.params]

/-- The reply has come. -/
theorem Reached.received {index : Index} {arg : Word} {sh : Shape} {q : Quad} {m : Micro}
    (h : Reached s handshake events (r.answers (echoOf sh r.status q) ++ rest) t) :
    Reached s handshake (events ++ Reply.events s.params index arg r (echoOf sh r.status q)) rest
      { t.received index arg sh r.misses r.polls r.status q rest with micro := m } := by
  refine h.trans ⟨h.busy, rfl, h.handshake, ?_, rfl⟩
  simp [State.outside, State.received, Reply.events, h.params]

theorem cmdClosed_betweenCommands (hopen : t.scopeOpen = true) (hlevel : t.csLevel = .low) (m : Micro) :
    State.betweenCommands { t.cmdClosed Answer.done rest with micro := m } := by
  cases h : t.params.csScope <;>
    simp [State.betweenCommands, State.cmdClosed, State.restored, Answer.done, h, hopen, hlevel]

/-- From its start a command whose reply arrives comes to its stage. -/
theorem Comes.answered (h : Comes s speedup c handshake events (initAnswers s.params r echo ++ rest))
    (hv : c.versionOk handshake.version) (hr : r.arrives s.params) (hecho : echo.isSome = readsExtra c.shape r.status) :
    Answered s speedup c r echo handshake (events ++ InitCmd.events s.params handshake.version c r echo) rest := by
  obtain ⟨n, t, hrun, ht, hbetween⟩ := h
  obtain ⟨hmiss, hlen, hwrite, hpolls, hne⟩ := hr
  have hq := echoOf_getD hecho t.extra
  rw [initAnswers_eq, ← hq, List.append_assoc, List.append_assoc] at ht
  obtain ⟨n1, hstart⟩ := runs_start ht.busy (by rw [ht.answers, ht.params]) (by rwa [ht.version]) hbetween
  have hin := ht.inCommand c
  have hcmd := runs_command _ hin.busy rfl rfl rfl rfl hin.answers hwrite hmiss (by rwa [hin.params]) (by rwa [hin.params]) hne
  have hgot := hin.received (m := .respond) (index := c.index t.params) (arg := c.arg t.params t.version)
  obtain ⟨m, hjudged⟩ := runs_judged hgot.busy rfl rfl hne rfl (a := Answer.done) (rest := rest)
    (by rw [hgot.answers, hgot.params]) (fun _ => rfl)
  have hclosed := hgot.trans (reached_cmdClosed hgot.busy rfl (by rw [hgot.answers, hgot.params]) m)
  refine ⟨_, _, (runs_then hrun).trans ((runs_then hstart).trans ((runs_then hcmd).trans hjudged)), ?_,
    cmdClosed_betweenCommands (by exact rfl) (by exact rfl) m, ?_⟩
  · refine hclosed.congr hgot.handshake ?_
    rw [hgot.params, hq, ht.version, ht.params, initCmdEvents_eq]
    simp [Answer.done]
  · unfold State.cmdClosed
    split <;> refine ⟨rfl, rfl, ?_⟩ <;> rintro q rfl <;> exact if_pos hecho.symm

/-! ## A rule for each stage's answer -/

theorem Reply.ok.statusError {p : Params} (h : r.ok p) : statusError r.status = none := statusError_eq_none.mpr h.2

/-- A response of shape R3 or R7 that reports no error brings its four bytes. -/
theorem Reply.ok.isSome_eq_readsExtra {p : Params} (h : r.ok p) {sh : Shape} (hne : sh ≠ .r1) (q : Quad) :
    (some q).isSome = readsExtra sh r.status :=
  ((readsExtra_of_no_error h.statusError).mpr hne).symm

namespace Comes

theorem goIdle (h : Comes s speedup .goIdle handshake events (initAnswers s.params r none ++ rest)) (hp : s.params.wf = true)
    (hv : handshake.version = none) (hr : r.ok s.params) :
    Comes s speedup .sendIfCond { handshake with state := .versionProbe, vpCnt := 1 }
      (events ++ InitCmd.events s.params none .goIdle r none) rest := by
  obtain ⟨n, t, hrun, ht, hbetween, -⟩ := h.answered hv hr.1 rfl
  have henter := enterVersionProbe_eq (by rwa [ht.params]) (ht.version.trans hv)
  exact ⟨n, _, hrun.trans ((judged_ok hr.statusError).trans henter), (hv ▸ ht).versionProbe, hbetween⟩

/-- A mismatched echo with an attempt left (R172). -/
theorem mismatch {q : Quad} (h : Comes s speedup .sendIfCond handshake events (initAnswers s.params r (some q) ++ rest))
    (hv : handshake.version = none) (hr : r.ok s.params)
    (hne : q.voltage ≠ s.params.vhsCode ∨ q.pattern ≠ s.params.checkPattern) (hleft : handshake.vpCnt ≠ s.params.nVp) :
    Comes s speedup .sendIfCond { handshake with vpCnt := handshake.vpCnt + 1 }
      (events ++ InitCmd.events s.params none .sendIfCond r (some q)) rest := by
  obtain ⟨n, t, hrun, ht, hbetween, -, -, hextra⟩ := h.answered hv hr.1 (hr.isSome_eq_readsExtra (by decide) q)
  have hecho : checkEcho t.params t.params.checkPattern t.extra ≠ none := by
    rw [ht.params, hextra q rfl]; exact checkEcho_ne_none hne
  have hnext := versionAttempt_eq (by rwa [ht.vpCnt, ht.params]) (ht.version.trans hv)
  have hjudged := (judged_ok (c := .sendIfCond) hr.statusError).trans ((judgeEcho_mismatch hecho).trans hnext)
  exact ⟨n, _, hrun.trans hjudged, (hv ▸ ht).attempt, hbetween⟩

/-- The matching echo (R171). -/
theorem matching {q : Quad} (h : Comes s speedup .sendIfCond handshake events (initAnswers s.params r (some q) ++ rest))
    (hv : handshake.version = none) (hr : r.ok s.params) (hvoltage : q.voltage = s.params.vhsCode)
    (hpattern : q.pattern = s.params.checkPattern) :
    Comes s speedup .crcOnOff { handshake with version := some .v2, state := .crcEnable }
      (events ++ InitCmd.events s.params none .sendIfCond r (some q)) rest := by
  obtain ⟨n, t, hrun, ht, hbetween, -, -, hextra⟩ := h.answered hv hr.1 (hr.isSome_eq_readsExtra (by decide) q)
  have hecho : checkEcho t.params t.params.checkPattern t.extra = none := by
    rw [ht.params, hextra q rfl]; exact checkEcho_of_match hvoltage hpattern
  have hjudged := (judged_ok (c := .sendIfCond) hr.statusError).trans (judgeEcho_match hecho ht.errCode)
  exact ⟨n, _, hrun.trans hjudged, (hv ▸ ht).crcEnable .v2, hbetween⟩

/-- IllegalCommand: the response is truncated, and the card is V1 (R169). -/
theorem illegal (h : Comes s speedup .sendIfCond handshake events (initAnswers s.params r none ++ rest))
    (hv : handshake.version = none) (hr : r.arrives s.params) (hill : r.status.getLsbD 2 = true) :
    Comes s speedup .crcOnOff { handshake with version := some .v1, state := .crcEnable }
      (events ++ InitCmd.events s.params none .sendIfCond r none) rest := by
  have htruncated : readsExtra .r7 r.status = false := by simp [readsExtra, isTruncated, illegalCmdFlag, hill]
  obtain ⟨n, t, hrun, ht, hbetween, -⟩ := h.answered hv hr htruncated.symm
  have hcaught := (judged_error (c := .sendIfCond) (s := t) (statusError_illegal.mpr hill)).trans (stageErr_caught t)
  exact ⟨n, _, hrun.trans hcaught, (hv ▸ ht).crcEnable .v1, hbetween⟩

theorem crcOnOff (h : Comes s speedup .crcOnOff handshake events (initAnswers s.params r none ++ rest))
    (hp : s.params.wf = true) (hv : handshake.version.isSome = true) (hr : r.ok s.params) :
    Comes s speedup .appCmd { handshake with state := .opCondWait, ocCnt := 1 }
      (events ++ InitCmd.events s.params handshake.version .crcOnOff r none) rest := by
  obtain ⟨n, t, hrun, ht, hbetween, -⟩ := h.answered hv hr.1 rfl
  have henter := enterOpCondWait_eq (by rwa [ht.params]) (by rwa [ht.version])
  exact ⟨n, _, hrun.trans ((judged_ok hr.statusError).trans henter), ht.opCondWait, hbetween⟩

theorem appCmd (h : Comes s speedup .appCmd handshake events (initAnswers s.params r none ++ rest))
    (hv : handshake.version.isSome = true) (hr : r.ok s.params) :
    Comes s speedup .sdSendOpCond handshake (events ++ InitCmd.events s.params handshake.version .appCmd r none) rest := by
  obtain ⟨n, t, hrun, ht, hbetween, -⟩ := h.answered hv hr.1 rfl
  have hnext := startCmd_eq (c := .sdSendOpCond) (s := t) (by rwa [← ht.version] at hv)
  exact ⟨n, _, hrun.trans ((judged_ok hr.statusError).trans hnext), ht, hbetween⟩

/-- An idle card with an iteration left (R176, R177). -/
theorem idle (h : Comes s speedup .sdSendOpCond handshake events (initAnswers s.params r none ++ Answer.done :: rest))
    (hv : handshake.version.isSome = true) (hr : r.ok s.params) (hidle : r.status.getLsbD 0 = true)
    (hleft : handshake.ocCnt ≠ s.params.nOc) :
    Comes s speedup .appCmd { handshake with ocCnt := handshake.ocCnt + 1 }
      (events ++ InitCmd.events s.params handshake.version .sdSendOpCond r none ++ [.delay s.params.tOcUs]) rest := by
  obtain ⟨n, t, hrun, ht, hbetween, -, hstatus, -⟩ := h.answered hv hr.1 rfl
  obtain ⟨v, hwait, hv', -, hopen, hlevel⟩ :=
    runs_opCondDelay (hrun.trans (judged_ok hr.statusError)) (by rw [hstatus]; exact hidle) ht
  have hnext := opCondIteration_eq (by rwa [hv'.ocCnt, hv'.params]) (by rwa [hv'.version])
  refine ⟨_, _, hwait.trans hnext, hv'.iteration, ?_⟩
  simpa only [State.betweenCommands, hopen, hlevel, hv'.params, ht.params] using hbetween

/-- A ready V1 card has no command more (R180). -/
theorem readyVersionOne (h : Comes s speedup .sdSendOpCond handshake events (initAnswers s.params r none ++ rest))
    (hv : handshake.version = some .v1) (hr : r.ok s.params) (hready : r.status.getLsbD 0 = false) :
    Classified s speedup { handshake with state := .capacityProbe, capacity := some .standard }
      (events ++ InitCmd.events s.params handshake.version .sdSendOpCond r none) rest := by
  obtain ⟨n, t, hrun, ht, hbetween, hop, hstatus, -⟩ := h.answered (by rw [hv]; rfl) hr.1 rfl
  have hprobe := (judgeIdle_ready (by rw [hstatus]; exact hready)).trans (enterCapacityProbe_v1 (ht.version.trans hv))
  exact ⟨n, _, hrun.trans ((judged_ok hr.statusError).trans hprobe), ht.capacityProbe.classified .standard, hbetween, _, hop⟩

/-- A ready V2 card gets READ_OCR (R181). -/
theorem readyVersionTwo (h : Comes s speedup .sdSendOpCond handshake events (initAnswers s.params r none ++ rest))
    (hv : handshake.version = some .v2) (hr : r.ok s.params) (hready : r.status.getLsbD 0 = false) :
    Comes s speedup .readOcr { handshake with state := .capacityProbe }
      (events ++ InitCmd.events s.params handshake.version .sdSendOpCond r none) rest := by
  obtain ⟨n, t, hrun, ht, hbetween, -, hstatus, -⟩ := h.answered (by rw [hv]; rfl) hr.1 rfl
  have hprobe := (judgeIdle_ready (by rw [hstatus]; exact hready)).trans (enterCapacityProbe_v2 (ht.version.trans hv))
  exact ⟨n, _, hrun.trans ((judged_ok hr.statusError).trans hprobe), ht.capacityProbe, hbetween⟩

theorem readOcr {q : Quad} (h : Comes s speedup .readOcr handshake events (initAnswers s.params r (some q) ++ rest))
    (hv : handshake.version = some .v2) (hr : r.ok s.params) :
    Classified s speedup { handshake with capacity := some (Machine.capacityFromOcr q) }
      (events ++ InitCmd.events s.params handshake.version .readOcr r (some q)) rest := by
  obtain ⟨n, t, hrun, ht, hbetween, hop, -, hextra⟩ := h.answered hv hr.1 (hr.isSome_eq_readsExtra (by decide) q)
  have hclass := (ht.classified (Machine.capacityFromOcr t.extra)).congr (by rw [hextra q rfl]) rfl
  exact ⟨n, _, hrun.trans ((judged_ok hr.statusError).trans (judgeOcr_eq ht.errCode)), hclass, hbetween, _, hop⟩

/-! ## The attempts and the iterations -/

/-- Any number of mismatched echoes. -/
theorem mismatches {l : List (Reply × Quad)} (h : Comes s speedup .sendIfCond handshake events
      (l.flatMap (fun m => initAnswers s.params m.1 (some m.2)) ++ rest)) (hv : handshake.version = none)
    (hl : ∀ m ∈ l, m.1.ok s.params ∧ (m.2.voltage ≠ s.params.vhsCode ∨ m.2.pattern ≠ s.params.checkPattern))
    (hcnt : handshake.vpCnt + l.length ≤ s.params.nVp) :
    Comes s speedup .sendIfCond { handshake with vpCnt := handshake.vpCnt + l.length }
      (events ++ l.flatMap fun m => InitCmd.events s.params none .sendIfCond m.1 (some m.2)) rest := by
  induction l generalizing handshake events with
  | nil => simpa using h
  | cons m l ih =>
    obtain ⟨hm, hl⟩ := List.forall_mem_cons.mp hl
    rw [List.length_cons] at hcnt
    rw [List.flatMap_cons, List.append_assoc] at h
    have hnext := ih (h.mismatch hv hm.1 hm.2 (by omega)) hv hl (by dsimp only; omega)
    simpa only [List.flatMap_cons, List.append_assoc, List.length_cons, Nat.add_assoc, Nat.add_comm 1] using hnext

/-- Any number of iterations that find the card idle. -/
theorem idles {l : List (Reply × Reply)} (h : Comes s speedup .appCmd handshake events
      (l.flatMap (fun d => initAnswers s.params d.1 none ++ (initAnswers s.params d.2 none ++ [Answer.done])) ++ rest))
    (hv : handshake.version.isSome = true)
    (hl : ∀ d ∈ l, d.1.ok s.params ∧ d.2.ok s.params ∧ d.2.status.getLsbD 0 = true)
    (hcnt : handshake.ocCnt + l.length ≤ s.params.nOc) :
    Comes s speedup .appCmd { handshake with ocCnt := handshake.ocCnt + l.length }
      (events ++ l.flatMap fun d => InitCmd.events s.params handshake.version .appCmd d.1 none
        ++ InitCmd.events s.params handshake.version .sdSendOpCond d.2 none ++ [.delay s.params.tOcUs]) rest := by
  induction l generalizing handshake events with
  | nil => simpa using h
  | cons d l ih =>
    obtain ⟨⟨happ, hcond, hidle⟩, hl⟩ := List.forall_mem_cons.mp hl
    rw [List.length_cons] at hcnt
    rw [List.flatMap_cons, List.append_assoc, List.append_assoc, List.append_assoc, List.singleton_append] at h
    have hnext := ih ((h.appCmd hv happ).idle hv hcond hidle (by omega)) hv hl (by dsimp only; omega)
    simpa only [List.flatMap_cons, List.append_assoc, List.length_cons, Nat.add_assoc, Nat.add_comm 1] using hnext

end Comes

/-! ## The beginning and the end -/

/-- PowerUp comes to Idle's command. -/
theorem comes_goIdle (ha : s.answers = powerUpAnswers s.params ++ rest) :
    Comes s speedup .goIdle { (s.poweringUp speedup).handshake with state := .idle } (powerUpEvents s.params) rest := by
  unfold powerUpAnswers at ha
  unfold powerUpEvents
  cases hscope : s.params.csScope <;> simp only [hscope] at ha ⊢
  case wholeHandshake =>
    have hrun := runs_then_step (runs_powerUp_whole (speedup := speedup) hscope ha rfl rfl) (step_powerUp_open hscope rfl)
    refine ⟨4, _, hrun, ⟨rfl, rfl, rfl, ?_, rfl⟩, ?_⟩
    · simp [State.outside, State.powerUpAt, powerUpCalls, State.poweringUp]
    · simp [State.betweenCommands, State.powerUpAt, hscope]
  case perCommand =>
    refine ⟨3, _, runs_powerUp_per hscope ha rfl rfl, ⟨rfl, rfl, rfl, ?_, rfl⟩, ?_⟩
    · simp [State.outside, State.powerUpAt, powerUpCalls, State.poweringUp]
    · simp [State.betweenCommands, State.powerUpAt, hscope, State.poweringUp, unsetRegs]

/-- Under `WholeHandshake` the handshake's scope is closed first (R161). -/
theorem Classified.closes (h : Classified s speedup handshake events (closeAnswers s.params ++ rest)) :
    ∃ n t, runs n (s.poweringUp speedup) = .next t ∧ t.micro = .finish
      ∧ Reached s handshake (events ++ closeEvents s.params) rest t ∧ t.scopeOpen = false ∧ t.csLevel = .high := by
  obtain ⟨n, t, hrun, ht, hbetween, c, hop⟩ := h
  rw [← ht.params] at ht ⊢
  unfold State.betweenCommands at hbetween
  unfold endStages at hrun
  unfold closeAnswers at ht
  unfold closeEvents
  cases hscope : t.params.csScope <;> simp only [hscope] at hrun ht hbetween ⊢
  case wholeHandshake =>
    have hclose := step_restore_whole (s := { t with micro := .csHigh none }) ht.busy hop hscope rfl ht.answers
    exact ⟨n + 1, _, runs_then_step hrun hclose, rfl, ht.trans ⟨ht.busy, ht.errCode, ht.handshake, rfl, rfl⟩, rfl, rfl⟩
  case perCommand =>
    rw [List.append_nil]
    exact ⟨n, _, hrun, rfl, ⟨ht.busy, ht.errCode, ht.handshake, ht.outside, ht.rsp⟩, hbetween⟩

/-- After the stages INIT returns the class from Ready, with the registers of the handshake left as they are. -/
theorem Classified.completes {k : CapClass} {before : List Event}
    (h : Classified s speedup handshake events (closeAnswers s.params ++ rest)) (hcap : handshake.capacity = some k)
    (hreq : handshake.speedupReq = speedup) (hbefore : before = s.trace ++ events) :
    ∃ t n, runs n (s.poweringUp speedup) = .next t
      ∧ t.state = .ready ∧ t.version = handshake.version ∧ t.capacity = some k ∧ t.errCode = none
      ∧ t.failState = handshake.failState ∧ t.vpCnt = handshake.vpCnt ∧ t.ocCnt = handshake.ocCnt
      ∧ t.busy = false ∧ t.owned = false ∧ t.scopeOpen = false ∧ t.csLevel = .high
      ∧ t.params = s.params ∧ t.host = s.host ∧ t.answers = rest ∧ t.rsp = s.rsp ++ [⟨true, .capacity k, none, true⟩]
      ∧ t.trace = before ++ closeEvents s.params ++ speedUpEvents speedup := by
  obtain ⟨n, t, hrun, hm, ht, hopen, hlevel⟩ := h.closes
  have hspeedup : t.speedupReq = speedup := (congrArg Handshake.speedupReq ht.handshake).trans hreq
  have hready := readyActions t k ht.busy hm (ht.capacity.trans hcap)
  refine ⟨_, _, runs_then_step hrun hready, rfl, ht.version, ht.capacity.trans hcap, ht.errCode,
    congrArg Handshake.failState ht.handshake, ht.vpCnt, ht.ocCnt, rfl, rfl, hopen, hlevel, ht.params,
    congrArg Outside.host ht.outside, ht.answers, congrArg (· ++ _) ht.rsp, ?_⟩
  simp [ht.trace, hspeedup, speedUpEvents, hbefore]

/-! ## The statements -/

/-- The handshake up to the last SEND_IF_COND. -/
theorem comes_lastSendIfCond {card : Card} (hp : s.params.wf = true) (hpass : card.Passes s.params)
    (ha : s.answers = powerUpAnswers s.params ++ (initAnswers s.params card.goIdle none ++
      (card.mismatches.flatMap (fun m => initAnswers s.params m.1 (some m.2)) ++ rest))) :
    Comes s speedup .sendIfCond
      { (s.poweringUp speedup).handshake with state := .versionProbe, vpCnt := card.mismatches.length + 1 }
      (powerUpEvents s.params ++ InitCmd.events s.params none .goIdle card.goIdle none
        ++ card.mismatches.flatMap fun m => InitCmd.events s.params none .sendIfCond m.1 (some m.2)) rest := by
  obtain ⟨hgoIdle, -, -, -, -, -, hlen, hmismatches, -⟩ := hpass
  rw [Nat.add_comm]
  exact ((comes_goIdle ha).goIdle hp rfl hgoIdle).mismatches rfl hmismatches (by dsimp only; omega)

/-- From CRC_ON_OFF to the last SD_SEND_OP_COND. -/
theorem Comes.lastSdSendOpCond {card : Card} {v : CardVersion} (h : Comes s speedup .crcOnOff handshake events
      (initAnswers s.params card.crcOn none ++
        (card.idles.flatMap (fun d => initAnswers s.params d.1 none ++ (initAnswers s.params d.2 none ++ [Answer.done])) ++
          (initAnswers s.params card.appCmd none ++ rest))))
    (hp : s.params.wf = true) (hpass : card.Passes s.params) (hv : handshake.version = some v) :
    Comes s speedup .sdSendOpCond { handshake with state := .opCondWait, ocCnt := card.idles.length + 1 }
      (events ++ InitCmd.events s.params (some v) .crcOnOff card.crcOn none
        ++ card.idles.flatMap (fun d => InitCmd.events s.params (some v) .appCmd d.1 none
          ++ InitCmd.events s.params (some v) .sdSendOpCond d.2 none ++ [.delay s.params.tOcUs])
        ++ InitCmd.events s.params (some v) .appCmd card.appCmd none) rest := by
  obtain ⟨-, -, hcrcOn, happCmd, -, -, -, -, hlen, hidles⟩ := hpass
  have hsome : handshake.version.isSome = true := by rw [hv]; rfl
  rw [Nat.add_comm, ← hv]
  exact ((h.crcOnOff hp hsome hcrcOn).idles hsome hidles (by dsimp only; omega)).appCmd hsome happCmd

/-- Settles O42: stage by stage, with the last SEND_IF_COND illegal (`Comes.illegal`) and no command after the ready card
(`Comes.readyVersionOne`). -/
theorem initCompletesForVersionOne : Obligations.InitCompletesForVersionOne := by
  intro s speedup card rest hp hpass hill ha
  simp only [Card.answers, List.append_assoc] at ha
  have ⟨_, hifCond, _, _, hopCond, hready, _⟩ := hpass
  have hprobe := comes_lastSendIfCond (speedup := speedup) hp hpass ha
  have hcrc := hprobe.illegal rfl hifCond hill
  have hwait := hcrc.lastSdSendOpCond (card := card) (v := .v1) hp hpass rfl
  obtain ⟨t, n, hrun, hend⟩ := (hwait.readyVersionOne rfl hopCond hready).completes rfl rfl rfl
  exact ⟨_, t, n, exec_init s speedup, hrun, hend⟩

/-- Settles O43: stage by stage, with the last SEND_IF_COND's echo matching (`Comes.matching`) and READ_OCR after the ready card
(`Comes.readOcr`). -/
theorem initCompletesForVersionTwo : Obligations.InitCompletesForVersionTwo := by
  intro s speedup card echo ocr r rest hp hpass hifCond hvoltage hpattern hr ha
  simp only [Card.answers, List.append_assoc] at ha
  have ⟨_, _, _, _, hopCond, hready, _⟩ := hpass
  have hprobe := comes_lastSendIfCond (speedup := speedup) hp hpass ha
  have hcrc := hprobe.matching rfl hifCond hvoltage hpattern
  have hwait := hcrc.lastSdSendOpCond (card := card) (v := .v2) hp hpass rfl
  obtain ⟨t, n, hrun, hend⟩ := ((hwait.readyVersionTwo rfl hopCond hready).readOcr rfl hr).completes rfl rfl
    (List.append_assoc _ _ _)
  exact ⟨_, t, n, exec_init s speedup, hrun, hend⟩

end Sys2Proof.Machine

/-! PROOFS. Where the CORE stops (60_exceptions.md R193, R196, R198). A busy step always goes on: INIT's is on its course
(`stepsOn`), and no other operation reads a class register. At rest the request port alone can stop the CORE, on an ENCODE
with a short destination or on a request it refuses. -/

namespace Sys2Proof

open Machine

/-! ## The requests that are refused -/

/-- The causes R193 lists for IllegalRequest. -/
def Request.Refused (r : Request) : Prop :=
  r.op = 0x0 ∨ 0xC ≤ r.op
    ∨ (r.op = 0x9 ∧ r.shape = 3)
    ∨ (r.op = 0x3 ∧ r.bytes.length ≠ 6)
    ∨ ((r.op = 0x4 ∨ r.op = 0x5) ∧ r.bytes.length ≠ 1)
    ∨ ((r.op = 0x6 ∨ r.op = 0x7) ∧ r.bytes.length ≠ 4)
    ∨ (r.op = 0xA ∧ ∃ e ∈ r.body, (e.op ≠ 0x8 ∧ e.op ≠ 0x9) ∨ (e.op = 0x9 ∧ e.shape = 3))

theorem requestOp_reserved_iff {op : BitVec 4} : ¬ (0x1 ≤ op ∧ op ≤ 0xB) ↔ op = 0x0 ∨ 0xC ≤ op := by
  revert op; decide

theorem bodyElement_refused_iff {e : SubRequest} : ¬ (e.op = 0x8 ∨ (e.op = 0x9 ∧ e.shape ≠ 3)) ↔
    (e.op ≠ 0x8 ∧ e.op ≠ 0x9) ∨ (e.op = 0x9 ∧ e.shape = 3) := by
  have hne : e.op = 0x9 → e.op ≠ 0x8 := fun hop => by rw [hop]; decide
  tauto

/-- A request decodes to no instruction exactly when one of the causes is there. -/
theorem decode_request_refused_iff {p : Params} {r : Request} :
    (¬ ∃ i, decode p (.request r) = .ok i) ↔ r.Refused := by
  have hbody : ¬ (∀ e ∈ r.body, e.op = 0x8 ∨ (e.op = 0x9 ∧ e.shape ≠ 3)) ↔
      ∃ e ∈ r.body, (e.op ≠ 0x8 ∧ e.op ≠ 0x9) ∨ (e.op = 0x9 ∧ e.shape = 3) := by
    simp only [← bodyElement_refused_iff, not_forall, exists_prop]
  rw [decode_request_iff, not_and_or, requestOp_reserved_iff, or_assoc, Request.Refused, ← hbody]
  simp only [not_and_or, Classical.not_imp, not_not, ne_eq]
  exact iff_of_eq (by ac_rfl)

/-! ## The meanings of the requests that are not -/

theorem withLength_length {n : Nat} {bytes : List Byte} {i j : Instr} (h : withLength n bytes i = .ok j) :
    bytes.length = n := withLength_ok_iff.mp ⟨j, h⟩

theorem exists_frame_of_length {bytes : List Byte} (h : bytes.length = 6) : ∃ f : Frame, bytes = f.toList :=
  let [b0, b1, b2, b3, b4, b5] := bytes
  ⟨⟨b0, b1, b2, b3, b4, b5⟩, rfl⟩

theorem exists_quad_of_length {bytes : List Byte} (h : bytes.length = 4) : ∃ q : Quad, bytes = q.toList :=
  let [e0, e1, e2, e3] := bytes
  ⟨⟨e0, e1, e2, e3⟩, rfl⟩

theorem decodeBodyOp_wf {e : SubRequest} {b : BodyOp} (h : decodeBodyOp e = .ok b) : b.wf = true := by
  unfold decodeBodyOp at h
  split at h
  · cases h; rfl
  · split at h
    · split at h
      · next hshape => cases h; exact hshape
      · cases h
    · cases h

theorem decodeBody_wf {body : List SubRequest} {bs : List BodyOp} (h : decodeBody body = .ok bs) :
    bs.all BodyOp.wf = true := by
  induction body generalizing bs with
  | nil => cases h; rfl
  | cons e es ih =>
    rw [decodeBody] at h
    cases hb : decodeBodyOp e with
    | error _ => simp [hb] at h
    | ok b =>
      cases hbs : decodeBody es with
      | error _ => simp [hb, hbs] at h
      | ok bs' =>
        simp only [hb, hbs] at h
        cases h
        rw [List.all_cons, decodeBodyOp_wf hb, ih hbs]
        rfl

end Sys2Proof

namespace Sys2Proof.Machine

variable {s : State} {f : Fault}

/-- The outcome is a next state. -/
def Continues (o : Out) : Prop := ∃ t, o = .next t

@[simp] theorem continues_next (t : State) : Continues (.next t) := ⟨t, rfl⟩

theorem exec_statusCheckError_continues (st : Byte) (s : State) :
    Continues (exec (.statusCheckError [st]) s) := by
  cases hst : statusError st with
  | none => exact ⟨_, exec_statusCheckError_ok s hst⟩
  | some kind => exact ⟨_, exec_statusCheckError_rejected s hst⟩

theorem exec_checkIfEcho_continues (q : Quad) (pattern : Byte) (s : State) :
    Continues (exec (.checkIfEcho q.toList pattern) s) := by
  cases he : checkEcho s.params pattern q with
  | none => exact ⟨_, exec_checkIfEcho_ok he⟩
  | some e => exact ⟨_, exec_checkIfEcho_failed he⟩

theorem exec_execCmd_continues {index : Index} {arg : Word} {shape : BitVec 2} (hshape : (shapeOfCode shape).isSome = true)
    (s : State) : Continues (exec (.execCmd index arg shape) s) := by
  obtain ⟨sh, hsh⟩ := Option.isSome_iff_exists.mp hshape
  simp only [exec, execExecCmd, hsh, continues_next]

/-- ENCODE's is the one meaning that can stop on a request that is let through. -/
theorem exec_decoded_continues {r : Request} {i : Instr} (hd : decodeRequest r = .ok i) (hop : r.op ≠ 0x2) (s : State) :
    Continues (exec i s) := by
  unfold decodeRequest at hd
  split at hd
  · cases hd; exact continues_next _
  split at hd
  · obtain ⟨f, hf⟩ := exists_frame_of_length (withLength_length hd)
    rw [withLength_ok hd, hf]
    exact ⟨_, exec_decodeCmd_toList f s⟩
  split at hd
  · obtain ⟨st, hst⟩ := List.length_eq_one_iff.mp (withLength_length hd)
    rw [withLength_ok hd, hst]
    exact exec_statusCheckError_continues st s
  split at hd
  · obtain ⟨st, hst⟩ := List.length_eq_one_iff.mp (withLength_length hd)
    rw [withLength_ok hd, hst]
    exact ⟨_, exec_statusIsTruncated st s⟩
  split at hd
  · obtain ⟨q, hq⟩ := exists_quad_of_length (withLength_length hd)
    rw [withLength_ok hd, hq]
    exact exec_checkIfEcho_continues q r.pattern s
  split at hd
  · obtain ⟨q, hq⟩ := exists_quad_of_length (withLength_length hd)
    rw [withLength_ok hd, hq]
    exact ⟨_, exec_capacityFromOcr_toList q s⟩
  split at hd
  · cases hd; exact continues_next _
  split at hd
  · split at hd
    · next hshape => cases hd; exact exec_execCmd_continues hshape s
    · cases hd
  split at hd
  · split at hd
    · cases hd
    · next hbody =>
      cases hd
      obtain ⟨elems, helems⟩ := resolveBody_of_wf (decodeBody_wf hbody)
      exact ⟨_, exec_withCsLow helems⟩
  split at hd
  · cases hd; exact continues_next _
  · cases hd

/-! ## A CORE at rest -/

theorem decodeRequest_encode {r : Request} (hop : r.op = 0x2) : decodeRequest r = .ok (.encode r.index r.arg r.len) := by
  simp [decodeRequest, hop]

theorem step_request_fault_iff {r : Request} {rest : List HostInput} (hb : s.busy = false)
    (hh : s.host = .request r :: rest) :
    step s = .fault f ↔ (f = .bufferTooShort ∧ r.op = 0x2 ∧ r.len < 6) ∨ (f = .illegalRequest ∧ r.Refused) := by
  by_cases hop : r.op = 0x2
  case pos =>
    have haccepted : ¬ r.Refused := by simp [Request.Refused, hop]
    rw [step_request hb hh (decodeRequest_encode hop)]
    by_cases hlen : r.len < 6
    · rw [exec_encode_short hlen]
      simp [haccepted, hop, hlen, eq_comm]
    · rw [exec_encode_fits (Nat.not_lt.mp hlen)]
      simp [haccepted, hlen]
  case neg =>
    rw [← decode_request_refused_iff (p := s.params), decode]
    cases hd : decodeRequest r with
    | error e =>
      rw [step_refuse hb hh hd]
      simp only [hop, false_and, and_false, false_or]
      simp [eq_comm]
    | ok i =>
      obtain ⟨t, ht⟩ := exec_decoded_continues hd hop { s with host := rest }
      rw [step_request hb hh hd, ht]
      simp only [hop, false_and, and_false, false_or]
      simp

/-- At rest the CORE stops on a request and on nothing else. -/
theorem step_rest_fault_iff (hb : s.busy = false) : step s = .fault f ↔
    ∃ r rest, s.host = .request r :: rest
      ∧ ((f = .bufferTooShort ∧ r.op = 0x2 ∧ r.len < 6) ∨ (f = .illegalRequest ∧ r.Refused)) := by
  constructor
  · intro h
    rcases step_rest_cases hb with hs | ⟨rest, -, hs⟩ | ⟨r, rest, hh, -⟩
    · cases hs.symm.trans h
    · cases hs.symm.trans h
    · exact ⟨r, rest, hh, (step_request_fault_iff hb hh).mp h⟩
  · rintro ⟨r, rest, hh, hcause⟩
    exact (step_request_fault_iff hb hh).mpr hcause

/-! ## An operation other than INIT -/

theorem raise_continues (e : Err) (hn : s.notInit) : Continues (raise e s) := by
  cases hop : s.op with
  | none | waitReady | execCmd | withCsLow => simp only [raise, hop, continues_next]
  | init c => exact absurd hop (hn c)

theorem cmdOk_continues (r : CmdResult) (hn : s.notInit) : Continues (cmdOk r s) := by
  cases hop : s.op with
  | none | waitReady | execCmd | withCsLow => simp only [cmdOk, hop, continues_next]
  | init c => exact absurd hop (hn c)

theorem pollAttempt_continues (hn : s.notInit) : Continues (pollAttempt s) := by
  unfold pollAttempt
  split
  · exact raise_continues _ hn
  · exact continues_next _

theorem readyByte_continues (b : Byte) (hn : s.notInit) : Continues (readyByte b s) := by
  unfold readyByte
  split
  · exact continues_next _
  · split
    · exact raise_continues _ hn
    · exact continues_next _

theorem pollByte_continues (b : Byte) (hn : s.notInit) : Continues (pollByte b s) := by
  unfold pollByte
  split
  · exact pollAttempt_continues hn
  · exact continues_next _

theorem respond_continues (status : Byte) (echo : Option Quad) (hn : s.notInit) : Continues (respond status echo s) := by
  unfold respond receive
  dsimp only
  split
  · exact pollAttempt_continues hn
  · split
    · exact raise_continues _ (by exact hn)
    · exact cmdOk_continues _ (by exact hn)

theorem csLowAnswered_continues (fault : Bool) (hn : s.notInit) : Continues (csLowAnswered fault s) := by
  cases hop : s.op with
  | none | waitReady | execCmd | withCsLow => cases fault <;> simp [csLowAnswered, hop]
  | init c => exact absurd hop (hn c)

theorem csHighAnswered_continues (inFlight : Option Err) (fault : Bool) (hn : s.notInit) :
    Continues (csHighAnswered inFlight fault s) := by
  cases hop : s.op with
  | none | waitReady | execCmd | withCsLow => cases he : scopeError inFlight fault <;> simp [csHighAnswered, hop, he]
  | init c => exact absurd hop (hn c)

/-- Whatever the answer, the operation goes on; the points of PowerUp and OpCondWait are INIT's. -/
theorem resume_continues {call : Call} (hr : Running s) (hn : s.notInit) (hc : pendingCall s = some call) (a : Answer) :
    Continues (resume a s) := by
  have hn' : (logEvent (call.event a) s).notInit := hn
  have absurdInit (hm : s.micro.isCommand = false) (hlow : s.micro ≠ .csLow) (hhigh : ∀ e, s.micro ≠ .csHigh e) :
      False := by
    obtain ⟨c, hop, -⟩ := init_of_micro hr hm hlow hhigh
    exact hn c hop
  simp only [resume, hc, logEvent_micro]
  cases hm : s.micro <;> dsimp only
  case readyXfer =>
    split
    · exact raise_continues _ hn'
    · exact readyByte_continues _ hn'
  case frameWrite =>
    split
    · exact raise_continues _ hn'
    · exact pollAttempt_continues (by exact hn')
  case pollXfer =>
    split
    · exact raise_continues _ hn'
    · exact pollByte_continues _ hn'
  case extraXfer =>
    split
    · exact raise_continues _ hn'
    · exact continues_next _
  case csLow => exact csLowAnswered_continues _ hn'
  case csHigh => exact csHighAnswered_continues _ _ hn'
  case powerUpWrite | opCondDelay => exact (absurdInit (by rw [hm]; rfl) (by simp [hm]) (by simp [hm])).elim
  all_goals exact continues_next _

theorem step_notInit_continues (hi : CoreInv s) (hb : s.busy = true) (hn : s.notInit) : Continues (step s) := by
  rcases step_busy_cases hb with hs | ⟨c, -, -, hs⟩ | ⟨-, hs⟩ | ⟨hm, -⟩ | ⟨call, a, rest, hc, -, hs⟩
  · exact ⟨_, hs⟩
  · exact ⟨_, hs⟩
  · obtain ⟨echo, he⟩ := exec_responseOf s.shape s.status s.extra
    rw [hs, he]
    exact respond_continues _ _ hn
  · obtain ⟨c, hop, -⟩ := init_of_micro (hi.running hb) (by rw [hm]; rfl) (by simp [hm]) (by simp [hm])
    exact absurd hop (hn c)
  · rw [hs]
    exact resume_continues ((hi.with_answers rest).running hb) hn hc a

/-! ## A busy CORE -/

theorem step_init_continues {c : InitCmd} (hi : CoreInv s) (hb : s.busy = true) (hop : s.op = .init c) :
    Continues (step s) := by
  by_cases ha : pendingCall s ≠ none → s.answers ≠ []
  case pos =>
    obtain ⟨n, -, t, ht, -⟩ := stepsOn hi hb hop ha
    exact ⟨t, ht⟩
  case neg =>
    push Not at ha
    obtain ⟨hc, ha⟩ := ha
    obtain ⟨call, hc⟩ := Option.ne_none_iff_exists'.mp hc
    rw [step_of_pendingCall hb hc, ha]
    exact continues_next s

theorem step_busy_continues (hi : CoreInv s) (hb : s.busy = true) : Continues (step s) := by
  by_cases hinit : ∃ c, s.op = .init c
  case pos =>
    obtain ⟨c, hop⟩ := hinit
    exact step_init_continues hi hb hop
  case neg => exact step_notInit_continues hi hb (not_exists.mp hinit)

/-! ## The statements -/

/-- Settles O49: a busy CORE goes on (`step_busy_continues`), one at rest stops on the two programmer errors alone
(`step_rest_fault_iff`), and nothing is refused as unmodelled (`step_modelled`). -/
theorem onlyTheTwoProgrammerFaults : Obligations.OnlyTheTwoProgrammerFaults := by
  refine ⟨fun s f hi => ?_, step_modelled⟩
  cases hb : s.busy
  case false => exact (step_rest_fault_iff hb).trans (and_iff_right rfl).symm
  case true =>
    obtain ⟨t, ht⟩ := step_busy_continues hi hb
    simp [ht]

/-- Settles O40: the restore hands on the error in flight whatever its answer, under `WholeHandshake` to the end of INIT
(`step_restore_whole`), under `PerCommand` to a stage that does not catch it (`step_unwind`). -/
theorem abortAfterUnwinding : Obligations.AbortAfterUnwinding := by
  intro s c e a rest hb hop hm ha hfatal
  cases hscope : s.params.csScope
  case wholeHandshake => exact step_restore_whole hb hop hscope hm ha
  case perCommand => exact step_unwind hb hop hm ha (hfatal hscope)

end Sys2Proof.Machine

/-! PROOFS. A call that is out and a reset (70_reset_and_hazards.md R220, R228), and from APP_CMD's response to the frame of
SD_SEND_OP_COND (R229). A run from the response is an `OpCondRun`: it is on the way to the frame, it has written it, or it has
given up INIT and writes nothing more. -/

namespace Sys2Proof.Machine

variable {s t : State} {a : Answer} {rest : List Answer}

/-! ## A reset, and a call that is not answered -/

/-- Settles O33: `step_reset` runs `applyReset`, whose fields are the reset state's but for what stays. -/
theorem resetInput : Obligations.ResetInput := fun _ _ hb hh => step_reset hb hh

theorem step_unanswered {call : Call} (hb : s.busy = true) (hc : pendingCall s = some call) (ha : s.answers = []) :
    step s = .next s := by
  rw [step_of_pendingCall hb hc, ha]

/-- Settles O53: each step waits (`step_unanswered`), and so does the run. -/
theorem unansweredCallWaits : Obligations.UnansweredCallWaits := by
  intro s call n hb hc ha
  induction n with
  | zero => rfl
  | succ n ih => exact (runs_step (step_unanswered hb hc ha) n).trans ih

/-! ## On the way to the frame -/

/-- The points from APP_CMD's successful response to the frame write of SD_SEND_OP_COND: the restore of the one command's scope,
the assertion of the other's, its ready-wait and its frame. -/
def BeforeOpCond (s : State) : Prop :=
  match s.micro with
  | .respond => s.op = .init .appCmd ∧ statusError s.status = none
  | .csHigh none => s.op = .init .appCmd ∧ s.params.csScope = .perCommand
  | .csLow => s.op = .init .sdSendOpCond ∧ s.params.csScope = .perCommand
  | .readyXfer | .readyDelay | .sendFrame | .frameWrite => s.op = .init .sdSendOpCond
  | _ => False

/-- INIT is over, or an error of SD_SEND_OP_COND is in flight. -/
def GivesUp (s : State) : Prop :=
  s.busy = false ∨ (s.busy = true ∧ s.op = .init .sdSendOpCond ∧ ∃ e, s.micro = .csHigh (some e))

/-- A step from `s` to `t` comes nearer to the frame, for the same version, or gives up. -/
def LeadsOn (s t : State) : Prop := (BeforeOpCond t ∧ t.busy = true ∧ t.version = s.version) ∨ GivesUp t

/-- APP_CMD's response ends the command: SD_SEND_OP_COND starts, or the scope around APP_CMD is left first. -/
theorem step_respond_leadsOn (hi : CoreInv s) (hb : s.busy = true) (hop : s.op = .init .appCmd) (hm : s.micro = .respond)
    (hok : statusError s.status = none) (h : step s = .next t) : LeadsOn s t := by
  obtain ⟨herr, -, -, -, hv, -⟩ := hi.initCommand hb hop (by rw [hm]; rfl)
  obtain ⟨r, hstep⟩ := step_respond_ok hb hm (hi.status_ne_sentinel hb hm) herr hok
  rw [hstep] at h
  cases hscope : s.params.csScope
  case wholeHandshake =>
    rw [cmdOk_init_whole r hop hscope, stageOk, startCmd_eq (by exact hv), InitCmd.start_whole hscope] at h
    cases h
    exact .inl ⟨rfl, hb, rfl⟩
  case perCommand =>
    rw [cmdOk_init_per r hop hscope] at h
    cases h
    exact .inl ⟨⟨hop, hscope⟩, hb, rfl⟩

/-- The scope around APP_CMD is left: SD_SEND_OP_COND's is asserted, unless the restore faults. -/
theorem step_csHigh_leadsOn (hi : CoreInv s) (hb : s.busy = true) (hop : s.op = .init .appCmd)
    (hscope : s.params.csScope = .perCommand) (hm : s.micro = .csHigh none) (ha : s.answers = a :: rest)
    (h : step s = .next t) : LeadsOn s t := by
  have hpoint := hi.initPoint hb hop
  simp only [InitPoint, hm, hscope] at hpoint
  obtain ⟨-, -, -, hv⟩ := hpoint
  rw [step_restore_per hb hop hscope hm ha] at h
  cases hf : a.fault <;> simp only [scopeError, hf, if_true, if_false, Bool.false_eq_true] at h
  case false =>
    rw [stageOk, startCmd_eq (by exact hv), InitCmd.start_per (by exact hscope)] at h
    cases h
    exact .inl ⟨⟨rfl, hscope⟩, hb, rfl⟩
  case true =>
    rw [stageErr_chipSelectFault _ (by rfl)] at h
    cases h
    exact .inr (.inl rfl)

/-- The scope around SD_SEND_OP_COND is entered, unless the assertion faults. -/
theorem step_csLow_leadsOn (hi : CoreInv s) (hb : s.busy = true) (hop : s.op = .init .sdSendOpCond)
    (hscope : s.params.csScope = .perCommand) (hm : s.micro = .csLow) (ha : s.answers = a :: rest)
    (h : step s = .next t) : LeadsOn s t := by
  have hpoint := hi.initPoint hb hop
  simp only [InitPoint, hm] at hpoint
  obtain ⟨hclosed, hv, -⟩ := hpoint
  rw [step_csLow hb hm ha] at h
  cases hf : a.fault <;> rw [hf] at h
  case false =>
    rw [csLowAnswered_per (by exact hop) (by exact hscope) (by exact hv)] at h
    cases h
    exact .inl ⟨hop, hb, rfl⟩
  case true =>
    simp only [csLowAnswered, hop, hscope, if_true] at h
    rw [stageErr_chipSelectFault _ (by exact hclosed)] at h
    cases h
    exact .inr (.inl rfl)

/-- An error of SD_SEND_OP_COND is taken to the restore of the scope it is in. -/
theorem raise_givesUp {e : Err} (h : raise e s = .next t) (hb : s.busy = true) (hop : s.op = .init .sdSendOpCond)
    (hopen : s.scopeOpen = true) : GivesUp t := by
  rw [raise_init_fatal hop hopen (by simp)] at h
  cases h
  exact .inr ⟨hb, hop, e, rfl⟩

/-- An exchange of the ready-wait is followed by the frame, by the delay before the next attempt, or by an error. -/
theorem step_readyXfer_leadsOn (hi : CoreInv s) (hb : s.busy = true) (hop : s.op = .init .sdSendOpCond)
    (hm : s.micro = .readyXfer) (ha : s.answers = a :: rest) (h : step s = .next t) : LeadsOn s t := by
  obtain ⟨-, hopen, hcmd, -⟩ := hi.initCommand hb hop (by rw [hm]; rfl)
  rw [step_readyXfer hb hm ha] at h
  split at h
  · exact .inr (raise_givesUp h hb hop hopen)
  · unfold readyByte at h
    split at h
    · rw [readyOk_command (by exact hcmd)] at h
      cases h
      exact .inl ⟨hop, hb, rfl⟩
    · split at h
      · exact .inr (raise_givesUp h hb hop hopen)
      · cases h
        exact .inl ⟨hop, hb, rfl⟩

/-- Every step on the way leads on, but that of the frame write, which is the end of the way. -/
theorem step_leadsOn (hi : CoreInv s) (hb : s.busy = true) (hp : BeforeOpCond s) (hm : s.micro ≠ .frameWrite)
    (h : step s = .next t) : LeadsOn s t := by
  by_cases hwait : step s = .next s
  · rw [hwait] at h; cases h; exact .inl ⟨hp, hb, rfl⟩
  have answered (hc : pendingCall s ≠ none) : ∃ a rest, s.answers = a :: rest := by
    obtain ⟨call, hc⟩ := Option.ne_none_iff_exists'.mp hc
    exact List.exists_cons_of_ne_nil fun ha => hwait (step_unanswered hb hc ha)
  unfold BeforeOpCond at hp
  split at hp
  case h_1 hmicro => exact step_respond_leadsOn hi hb hp.1 hmicro hp.2 h
  case h_2 hmicro =>
    obtain ⟨a, rest, ha⟩ := answered (by simp [pendingCall, hmicro])
    exact step_csHigh_leadsOn hi hb hp.1 hp.2 hmicro ha h
  case h_3 hmicro =>
    obtain ⟨a, rest, ha⟩ := answered (by simp [pendingCall, hmicro])
    exact step_csLow_leadsOn hi hb hp.1 hp.2 hmicro ha h
  case h_4 hmicro =>
    obtain ⟨a, rest, ha⟩ := answered (by simp [pendingCall, hmicro])
    exact step_readyXfer_leadsOn hi hb hp hmicro ha h
  case h_5 hmicro =>
    obtain ⟨a, rest, ha⟩ := answered (by simp [pendingCall, hmicro])
    rw [step_readyDelay hb hmicro ha] at h
    cases h
    exact .inl ⟨hp, hb, rfl⟩
  case h_6 hmicro =>
    obtain ⟨-, -, hcmd, -⟩ := hi.initCommand hb hp (by rw [hmicro]; rfl)
    obtain ⟨c, hc⟩ := Option.isSome_iff_exists.mp hcmd
    rw [step_sendFrame hb hmicro hc] at h
    cases h
    exact .inl ⟨hp, rfl, rfl⟩
  case h_7 hmicro => exact absurd hmicro hm
  case h_8 => exact hp.elim

/-! ## What is recorded on the way -/

/-- The event is of SD_SEND_OP_COND's ready-wait or, under `PerCommand`, a chip-select call (R148, R229). -/
def Event.leadsToOpCond (p : Params) (e : Event) : Prop :=
  (∃ b, e = .xfer p.placeholder b) ∨ e = .delay p.tReadyUs ∨ (p.csScope = .perCommand ∧ e.isCs = true)

/-- The event is of a Write. -/
def Event.isWrite : Event → Bool
  | .write _ _ => true
  | _ => false

theorem Event.leadsToOpCond.not_write {p : Params} {e : Event} (h : e.leadsToOpCond p) : e.isWrite = false := by
  obtain ⟨b, rfl⟩ | rfl | ⟨-, hcs⟩ := h
  · rfl
  · rfl
  · cases e with
    | cs => rfl
    | xfer | write | delay | spd => cases hcs

/-- The frame of SD_SEND_OP_COND for the version in `s` (30_encoding.md R82). -/
def opCondFrame (s : State) : Frame :=
  frameOf (InitCmd.sdSendOpCond.index s.params) (InitCmd.sdSendOpCond.arg s.params s.version)

/-- On the way but at the frame write, the call that is out is no write. -/
theorem event_leadsToOpCond {call : Call} (hp : BeforeOpCond s) (hm : s.micro ≠ .frameWrite) (hc : pendingCall s = some call)
    (a : Answer) : (call.event a).leadsToOpCond s.params := by
  simp only [pendingCall] at hc
  unfold BeforeOpCond at hp
  split at hp <;> rename_i hmicro
  case h_8 => exact hp.elim
  all_goals
    rw [hmicro] at hc
    cases hc
  case h_2 | h_3 => exact .inr (.inr ⟨hp.2, rfl⟩)
  case h_4 => exact .inl ⟨_, rfl⟩
  case h_5 => exact .inr (.inl rfl)
  case h_7 => exact absurd hmicro hm

/-! ## The run from the response -/

/-- A run that has come from `s`, at APP_CMD's response, to `u`. -/
inductive OpCondRun (s : State) : State → Prop
  /-- it is on the way to the frame -/
  | onTheWay {u : State} {before : List Event} (inv : CoreInv u) (busy : u.busy = true) (point : BeforeOpCond u)
      (params : u.params = s.params) (version : u.version = s.version) (host : u.host = []) (trace : u.trace = s.trace ++ before)
      (events : ∀ e ∈ before, e.leadsToOpCond s.params) : OpCondRun s u
  /-- it has written the frame -/
  | written {u : State} {before after : List Event} {ok : Bool}
      (trace : u.trace = s.trace ++ before ++ .write (opCondFrame s).toList ok :: after)
      (events : ∀ e ∈ before, e.leadsToOpCond s.params) : OpCondRun s u
  /-- it has given up without writing anything -/
  | gaveUp {u : State} {events : List Event} (ends : GivesUp u) (host : u.host = []) (trace : u.trace = s.trace ++ events)
      (noWrite : ∀ e ∈ events, e.isWrite = false) : OpCondRun s u

/-- A step adds to the trace. -/
theorem step_trace (h : step s = .next t) : ∃ new, t.trace = s.trace ++ new := by
  rcases step_outside h with ⟨-, hout⟩ | ⟨-, hout⟩ | ⟨_, _, _, -, -, -, hout⟩ | ⟨-, -, -, hout⟩
  · exact ⟨[], (congrArg Outside.trace hout).trans (List.append_nil _).symm⟩
  · exact ⟨[], (congrArg Outside.trace hout).trans (List.append_nil _).symm⟩
  · exact ⟨_, congrArg Outside.trace hout⟩
  · exact ⟨_, congrArg Outside.trace hout⟩

/-- At the frame write the invariant has the frame of SD_SEND_OP_COND in `frame`. -/
theorem frame_of_opCondWrite (hi : CoreInv s) (hb : s.busy = true) (hop : s.op = .init .sdSendOpCond)
    (hm : s.micro = .frameWrite) : s.frame = opCondFrame s := by
  have hr := hi.running hb
  have hpoint := running_cp hr (by rw [hm]; rfl)
  have hcmd := running_ctx hr hpoint
  simp only [CommandPoint, hm] at hpoint
  simp only [InCommand, hop] at hcmd
  obtain ⟨operands, hc, hframe⟩ := hpoint
  obtain ⟨-, -, -, hc', -⟩ := hcmd
  cases hc.symm.trans hc'
  exact hframe

/-- The events of a step that is not the frame write's lead to it. -/
theorem step_events_leadToOpCond (hb : s.busy = true) (hp : BeforeOpCond s) (hm : s.micro ≠ .frameWrite)
    (h : step s = .next t) : t.host = s.host ∧ ∃ new, t.trace = s.trace ++ new ∧ ∀ e ∈ new, e.leadsToOpCond s.params := by
  rcases step_outside h with ⟨hb', -⟩ | ⟨-, hout⟩ | ⟨call, a, rest, -, hc, -, hout⟩ | ⟨-, hfinish, -⟩
  · rw [hb] at hb'; cases hb'
  · exact ⟨congrArg Outside.host hout, [], (congrArg Outside.trace hout).trans (List.append_nil _).symm, by simp⟩
  · refine ⟨congrArg Outside.host hout, [call.event a], congrArg Outside.trace hout, ?_⟩
    intro e he
    rw [List.mem_singleton.mp he]
    exact event_leadsToOpCond hp hm hc a
  · simp only [BeforeOpCond, hfinish] at hp

/-- The step of the frame write waits, or it records the write. -/
theorem step_opCondWrite (hb : s.busy = true) (hm : s.micro = .frameWrite) (h : step s = .next t) :
    t = s ∨ ∃ ok, t.trace = s.trace ++ [.write s.frame.toList ok] := by
  have hc : pendingCall s = some (.write s.frame.toList) := by simp only [pendingCall, hm]
  cases ha : s.answers with
  | nil => rw [step_unanswered hb hc ha] at h; cases h; exact .inl rfl
  | cons a rest =>
    rw [step_of_pendingCall hb hc, ha] at h
    exact .inr ⟨!a.fault, congrArg Outside.trace (resume_outside (s := { s with answers := rest }) hc h)⟩

/-- INIT that has given up does nothing more but leave its scope. -/
theorem step_givesUp (hg : GivesUp s) (hh : s.host = []) (h : step s = .next t) :
    GivesUp t ∧ t.host = [] ∧ ∃ new, t.trace = s.trace ++ new ∧ ∀ e ∈ new, e.isWrite = false := by
  by_cases hwait : step s = .next s
  · rw [hwait] at h; cases h; exact ⟨hg, hh, [], by simp, by simp⟩
  rcases hg with hb | ⟨hb, hop, e, hm⟩
  · exact absurd (step_idle hb hh) hwait
  · obtain ⟨a, rest, ha⟩ := List.exists_cons_of_ne_nil fun ha =>
      hwait (step_unanswered hb (call := .setCs .high) (by simp only [pendingCall, hm]) ha)
    rw [step_unwind hb hop hm ha (by simp)] at h
    cases h
    exact ⟨.inl rfl, hh, [.cs .high (!a.fault)], rfl, by simp [Event.isWrite]⟩

theorem step_opCondRun {u : State} (hr : OpCondRun s u) (h : step u = .next t) : OpCondRun s t := by
  cases hr with
  | written trace events =>
    obtain ⟨new, hnew⟩ := step_trace h
    exact .written (by rw [hnew, trace, List.append_assoc, List.cons_append]) events
  | gaveUp ends host trace noWrite =>
    obtain ⟨hends, hhost, new, hnew, hno⟩ := step_givesUp ends host h
    exact .gaveUp hends hhost (by rw [hnew, trace, List.append_assoc]) (List.forall_mem_append.mpr ⟨noWrite, hno⟩)
  | @onTheWay before inv busy point params version host trace events =>
    by_cases hm : u.micro = .frameWrite
    case pos =>
      have hframe := frame_of_opCondWrite inv busy (by simpa only [BeforeOpCond, hm] using point) hm
      rcases step_opCondWrite busy hm h with rfl | ⟨ok, hwrite⟩
      · exact .onTheWay inv busy point params version host trace events
      · rw [hframe, opCondFrame, params, version] at hwrite
        exact .written (by rw [hwrite, trace]; rfl) events
    case neg =>
      obtain ⟨hhost, new, hnew, hleads⟩ := step_events_leadToOpCond busy point hm h
      rw [params] at hleads
      have htrace : t.trace = s.trace ++ (before ++ new) := by rw [hnew, trace, List.append_assoc]
      have hevents := List.forall_mem_append.mpr ⟨events, hleads⟩
      rcases step_leadsOn inv busy point hm h with ⟨hpoint, hbusy, hversion⟩ | hends
      · exact .onTheWay (stepKeepsTheInvariant _ _ inv h) hbusy hpoint ((parametersAreConstant _ _ h).trans params)
          (hversion.trans version) (hhost.trans host) htrace hevents
      · exact .gaveUp hends (hhost.trans host) htrace fun e he => (hevents e he).not_write

/-- Two lists that agree agree up to their first write. -/
theorem append_write_inj {before before' after after' : List Event} {x y : Event}
    (h : before ++ x :: after = before' ++ y :: after') (hb : ∀ e ∈ before, e.isWrite = false)
    (hb' : ∀ e ∈ before', e.isWrite = false) (hx : x.isWrite = true) (hy : y.isWrite = true) : before = before' ∧ x = y := by
  have upTo {l l' : List Event} {z : Event} (hl : ∀ e ∈ l, e.isWrite = false) (hz : z.isWrite = true) :
      (l ++ z :: l').takeWhile (fun e => !e.isWrite) = l := by
    rw [List.takeWhile_append_of_pos (by simpa using hl), List.takeWhile_cons_of_neg (by simp [hz]), List.append_nil]
  have hbefore : before = before' := by rw [← upTo hb hx, h, upTo hb' hy]
  rw [hbefore] at h
  exact ⟨hbefore, (List.cons.inj (List.append_cancel_left h)).1⟩

/-- Settles O46: the run is an `OpCondRun` at APP_CMD's response and stays one (`step_opCondRun`); the one kind with a write in its
trace has the frame first. -/
theorem appCommandAdjacency : Obligations.AppCommandAdjacency := by
  intro s t st n before after bytes ok hi hb hop hm hst hok hh hrun htrace hbefore
  have hstart : OpCondRun s s := .onTheWay (before := []) hi hb
    (by simp only [BeforeOpCond, hm]; exact ⟨hop, statusError_eq_none.mpr (hst ▸ hok)⟩) rfl rfl hh (by simp) (by simp)
  have hnoWrite (e : Event) (he : e ∈ before) : e.isWrite = false := by
    cases e with
    | write bs b => exact absurd rfl (hbefore _ he bs b)
    | xfer | cs | delay | spd => rfl
  have absurdWrite {events : List Event} (h : t.trace = s.trace ++ events) (hno : ∀ e ∈ events, e.isWrite = false) : False := by
    have heq := List.append_cancel_left ((htrace.trans (List.append_assoc _ _ _)).symm.trans h)
    cases hno (.write bytes ok) (by simp [← heq])
  cases runs_keep step_opCondRun hstart hrun with
  | onTheWay _ _ _ _ _ _ trace events => exact (absurdWrite trace fun e he => (events e he).not_write).elim
  | gaveUp _ _ trace noWrite => exact (absurdWrite trace noWrite).elim
  | written trace events =>
    rw [htrace, List.append_assoc, List.append_assoc] at trace
    obtain ⟨rfl, hwrite⟩ := append_write_inj (List.append_cancel_left trace) hnoWrite (fun e he => (events e he).not_write) rfl rfl
    cases hwrite
    exact ⟨rfl, events⟩

end Sys2Proof.Machine

/-! PROOFS. A frame follows the sentinel (70_reset_and_hazards.md R226). Of the parts of a step, only the end of a ready-wait comes
to EXEC_CMD's frame: all others are `NoFrame`, and so a step comes to a frame from the sentinel or from the frame itself
(`step_sendsFrame`). -/

namespace Sys2Proof.Machine

variable {s t : State} {a : Answer}

/-- A frame is about to be written: it is built next, or its write is out. -/
def Micro.sendsFrame : Micro → Bool
  | .sendFrame | .frameWrite => true
  | _ => false

theorem sendsFrame_iff {m : Micro} : m.sendsFrame = true ↔ m = .sendFrame ∨ m = .frameWrite := by
  cases m <;> simp [Micro.sendsFrame]

/-- The outcome is no state in which a frame is about to be written. -/
def NoFrame (o : Out) : Prop := ∀ t, o = .next t → t.micro.sendsFrame = false

@[simp] theorem noFrame_next : NoFrame (.next s) ↔ s.micro.sendsFrame = false :=
  ⟨fun h => h s rfl, fun h t ht => by cases ht; exact h⟩

theorem noFrame_fault (f : Fault) : NoFrame (.fault f) := fun _ h => by cases h

theorem noFrame_readClass {α : Type} {r : Option α} {use : α → Out} (h : ∀ x, NoFrame (use x)) :
    NoFrame (readClass r use) := by
  cases r
  case none => exact noFrame_fault _
  case some x => exact h x

/-! ## The stages of INIT -/

@[simp] theorem initRaise_sendsFrame (e : Err) (s : State) : (initRaise e s).micro.sendsFrame = false := by
  unfold initRaise
  split <;> rfl

@[simp] theorem endStages_sendsFrame (s : State) : (endStages s).micro.sendsFrame = false := by
  unfold endStages
  split <;> rfl

@[simp] theorem runCmd_noFrame (c : InitCmd) (s : State) : NoFrame (runCmd c s) :=
  noFrame_readClass fun _ => noFrame_next.mpr rfl

@[simp] theorem startCmd_noFrame (c : InitCmd) (s : State) : NoFrame (startCmd c s) := by
  unfold startCmd
  split
  · exact runCmd_noFrame c _
  · exact noFrame_next.mpr rfl

@[simp] theorem versionAttempt_noFrame (s : State) : NoFrame (versionAttempt s) := by
  unfold versionAttempt
  split <;> simp

@[simp] theorem opCondIteration_noFrame (s : State) : NoFrame (opCondIteration s) := by
  unfold opCondIteration
  split <;> simp

@[simp] theorem enterCapacityProbe_noFrame (s : State) : NoFrame (enterCapacityProbe s) :=
  noFrame_readClass fun v => by cases v <;> simp

@[simp] theorem judgeEcho_noFrame (s : State) : NoFrame (judgeEcho s) := by
  unfold judgeEcho enterCrcEnable
  split <;> simp

@[simp] theorem judgeIdle_noFrame (s : State) : NoFrame (judgeIdle s) := by
  unfold judgeIdle
  split
  · exact noFrame_next.mpr rfl
  · exact enterCapacityProbe_noFrame s

@[simp] theorem stageOk_noFrame (c : InitCmd) (s : State) : NoFrame (stageOk c s) := by
  cases c <;> simp [stageOk, enterVersionProbe, enterOpCondWait, judgeOcr]

@[simp] theorem stageErr_noFrame (c : InitCmd) (e : Err) (s : State) : NoFrame (stageErr c e s) := by
  unfold stageErr enterCrcEnable
  split <;> simp

/-! ## The parts of `wait_ready`, of EXEC_CMD and of a scope -/

@[simp] theorem raise_noFrame (e : Err) (s : State) : NoFrame (raise e s) := by
  cases hop : s.op with
  | none | waitReady | execCmd | withCsLow => simp only [raise, hop]; exact noFrame_next.mpr rfl
  | init c =>
    simp only [raise, hop]
    split
    · exact stageErr_noFrame c e s
    · exact noFrame_next.mpr rfl

@[simp] theorem nextElem_sendsFrame (body : List BodyElem) (done : List BodyResult) (s : State) :
    (nextElem body done s).micro.sendsFrame = false := by
  unfold nextElem
  split <;> rfl

@[simp] theorem cmdOk_noFrame (r : CmdResult) (s : State) : NoFrame (cmdOk r s) := by
  cases hop : s.op with
  | none | waitReady | execCmd => simp only [cmdOk, hop]; exact noFrame_next.mpr rfl
  | withCsLow => simp only [cmdOk, hop]; exact noFrame_next.mpr (nextElem_sendsFrame _ _ s)
  | init c =>
    simp only [cmdOk, hop]
    split
    · exact stageOk_noFrame c s
    · exact noFrame_next.mpr rfl

@[simp] theorem pollAttempt_noFrame (s : State) : NoFrame (pollAttempt s) := by
  unfold pollAttempt
  split
  · exact raise_noFrame _ s
  · exact noFrame_next.mpr rfl

/-- A byte other than the sentinel is followed by no frame. -/
theorem readyByte_noFrame {b : Byte} (h : b ≠ sentinel) (s : State) : NoFrame (readyByte b s) := by
  simp only [readyByte, h, if_false]
  split
  · exact raise_noFrame _ s
  · exact noFrame_next.mpr rfl

@[simp] theorem pollByte_noFrame (b : Byte) (s : State) : NoFrame (pollByte b s) := by
  unfold pollByte
  split
  · exact pollAttempt_noFrame s
  · unfold statusByte
    dsimp only
    split <;> exact noFrame_next.mpr rfl

@[simp] theorem extraByte_sendsFrame (k : Fin 4) (b : Byte) (s : State) : (extraByte k b s).micro.sendsFrame = false := by
  unfold extraByte
  dsimp only
  split <;> rfl

@[simp] theorem respond_noFrame (status : Byte) (echo : Option Quad) (s : State) : NoFrame (respond status echo s) := by
  unfold respond receive
  dsimp only
  split
  · exact pollAttempt_noFrame s
  · split <;> simp

theorem csLowAnswered_noFrame (fault : Bool) (hm : s.micro = .csLow) : NoFrame (csLowAnswered fault s) := by
  cases fault <;> simp only [csLowAnswered, Bool.false_eq_true, if_true, if_false]
  case true =>
    split
    · split <;> simp
    · exact noFrame_next.mpr rfl
  case false =>
    split
    · simp
    · split <;> simp [enterIdle]
    · exact noFrame_next.mpr (by rw [hm]; rfl)

@[simp] theorem csHighAnswered_noFrame (inFlight : Option Err) (fault : Bool) (s : State) :
    NoFrame (csHighAnswered inFlight fault s) := by
  unfold csHighAnswered
  dsimp only
  split
  case h_2 | h_3 =>
    split
    · exact noFrame_next.mpr rfl
    · simp
  all_goals exact noFrame_next.mpr rfl

@[simp] theorem powerUpCsAnswered_sendsFrame (fault : Bool) (s : State) :
    (powerUpCsAnswered fault s).micro.sendsFrame = false := by
  unfold powerUpCsAnswered
  dsimp only
  split
  · exact initRaise_sendsFrame _ _
  · rfl

@[simp] theorem powerUpWritten_noFrame (fault : Bool) (s : State) : NoFrame (powerUpWritten fault s) := by
  unfold powerUpWritten enterIdle
  split
  · simp
  · split
    · exact noFrame_next.mpr rfl
    · simp

/-! ## The step -/

/-- Of the answers to a call, only the sentinel in a ready-wait is followed by a frame. -/
theorem resume_noFrame {call : Call} (hc : pendingCall s = some call)
    (hready : s.micro = .readyXfer → a.fault = false → a.byte ≠ sentinel) : NoFrame (resume a s) := by
  simp only [resume, hc, logEvent_micro]
  cases hm : s.micro <;> simp only
  case readyXfer =>
    cases hf : a.fault
    case false => exact readyByte_noFrame (hready hm hf) _
    case true => exact raise_noFrame _ _
  case frameWrite | pollXfer | extraXfer => split <;> simp [startPoll]
  case csLow => exact csLowAnswered_noFrame a.fault hm
  case csHigh | powerUpCsHigh | powerUpWrite | opCondDelay => simp
  case readyDelay | powerUpDelay => exact noFrame_next.mpr rfl
  all_goals simp [pendingCall, hm] at hc

/-- A request is answered at once, or it starts with another call than a frame's write. -/
theorem exec_noFrame {i : Instr} (hreq : i.format = .request) : NoFrame (exec i s) := by
  intro t h
  cases i with
  | crc7 | waitReady | init => cases h; rfl
  | encode =>
    simp only [exec, execEncode] at h
    split at h <;> cases h
    rfl
  | decodeCmd =>
    simp only [exec, execDecodeCmd] at h
    split at h <;> cases h
    rfl
  | statusCheckError =>
    simp only [exec, execStatusCheckError] at h
    split at h
    · split at h <;> cases h <;> rfl
    · cases h
  | statusIsTruncated =>
    simp only [exec, execStatusIsTruncated] at h
    split at h <;> cases h
    rfl
  | checkIfEcho =>
    simp only [exec, execCheckIfEcho] at h
    split at h
    · cases h
    · split at h <;> cases h <;> rfl
  | capacityFromOcr =>
    simp only [exec, execCapacityFromOcr] at h
    split at h <;> cases h
    rfl
  | execCmd =>
    simp only [exec, execExecCmd] at h
    split at h <;> cases h
    rfl
  | withCsLow =>
    simp only [exec, execWithCsLow] at h
    split at h <;> cases h
    rfl
  | cmdN | goIdleState | sendIfCond | crcOnOff | appCmd | sdSendOpCond | readOcr | respR1 | respR3 | respR7 => cases hreq

/-- A CORE at rest comes to no frame in one step: between the request and the frame lies a ready-wait. -/
theorem step_rest_noFrame (hb : s.busy = false) (hm : s.micro.sendsFrame = false) : NoFrame (step s) := by
  rcases step_rest_cases hb with hs | ⟨rest, -, hs⟩ | ⟨r, rest, -, hs | ⟨i, hd, hs⟩⟩ <;> rw [hs]
  · exact noFrame_next.mpr hm
  · exact noFrame_next.mpr rfl
  · exact noFrame_fault _
  · exact exec_noFrame (decodeRequest_format hd)

/-- A frame is about to be written after a step that records the sentinel, or after one that records nothing and comes from the
frame. -/
theorem step_sendsFrame (hb : s.busy = true) (hm : t.micro.sendsFrame = true) (h : step s = .next t) :
    t.trace = s.trace ++ [.xfer s.params.placeholder (some 0xFF)] ∨ (t.trace = s.trace ∧ s.micro.sendsFrame = true) := by
  have absurdFrame {o : Out} (hn : NoFrame o) (ho : o = .next t) : False := by cases hm.symm.trans (hn t ho)
  rcases step_busy_cases hb with hs | ⟨c, hmicro, -, hs⟩ | ⟨-, hs⟩ | ⟨-, hs⟩ | ⟨call, a, rest, hc, -, hs⟩ <;> rw [hs] at h
  · cases h; exact .inr ⟨rfl, hm⟩
  · cases h; exact .inr ⟨rfl, by rw [hmicro]; rfl⟩
  · obtain ⟨echo, he⟩ := exec_responseOf s.shape s.status s.extra
    exact (absurdFrame (respond_noFrame _ echo s) ((he s).symm.trans h)).elim
  · exact (absurdFrame (noFrame_readClass fun _ => noFrame_next.mpr rfl) h).elim
  · by_cases hready : s.micro = .readyXfer → a.fault = false → a.byte ≠ sentinel
    · exact (absurdFrame (resume_noFrame (s := { s with answers := rest }) hc hready) h).elim
    · push Not at hready
      obtain ⟨hmicro, hf, hbyte⟩ := hready
      have hcall : call = .xfer s.params.placeholder := by simpa [pendingCall, hmicro, eq_comm] using hc
      have hevent : call.event a = .xfer s.params.placeholder (some 0xFF) := by simp [hcall, Call.event, hf, hbyte, sentinel]
      have hout := resume_outside (s := { s with answers := rest }) hc h
      exact .inl (hevent ▸ congrArg Outside.trace hout)

/-- Settles O57: a step keeps `CoreInv`, and comes to a frame from the sentinel or from the frame (`step_sendsFrame`). -/
theorem framesFollowTheSentinel : Obligations.FramesFollowTheSentinel := by
  refine ⟨⟨invariantAtReset, by simp [State.reset]⟩, fun s t ⟨hi, hsent⟩ h => ⟨stepKeepsTheInvariant s t hi h, fun hm => ?_⟩⟩
  rw [← sendsFrame_iff] at hsent hm
  rw [parametersAreConstant s t h]
  cases hb : s.busy
  case false =>
    obtain ⟨hidle, -⟩ := hi.rest hb
    cases hm.symm.trans (step_rest_noFrame hb (by rw [hidle]; rfl) t h)
  case true =>
    rcases step_sendsFrame hb hm h with htrace | ⟨htrace, hframe⟩
    · rw [htrace, List.getLast?_concat]
    · rw [htrace]; exact hsent hframe

end Sys2Proof.Machine

/-! PROOFS. A busy CORE does not look at the request port (70_reset_and_hazards.md R231): each part of a step answers the same with
other requests offered, and what is offered stays. One equation for each part, in the order of the model. -/

namespace Sys2Proof.Machine

variable {s : State} {host : List HostInput}

/-- The state with these inputs at the request port. -/
def State.withHost (s : State) (host : List HostInput) : State := { s with host := host }

/-- The outcome with these inputs at the request port, where it is a state. -/
def withHostNext (host : List HostInput) : Out → Out
  | .next t => .next (t.withHost host)
  | .fault f => .fault f
  | .refused r => .refused r

@[simp] theorem withHostNext_next (t : State) : withHostNext host (.next t) = .next (t.withHost host) := rfl

@[simp] theorem withHost_params : (s.withHost host).params = s.params := rfl
@[simp] theorem withHost_busy : (s.withHost host).busy = s.busy := rfl
@[simp] theorem withHost_status : (s.withHost host).status = s.status := rfl
@[simp] theorem withHost_extra : (s.withHost host).extra = s.extra := rfl
@[simp] theorem withHost_shape : (s.withHost host).shape = s.shape := rfl
@[simp] theorem withHost_readyCnt : (s.withHost host).readyCnt = s.readyCnt := rfl
@[simp] theorem withHost_respCnt : (s.withHost host).respCnt = s.respCnt := rfl
@[simp] theorem withHost_vpCnt : (s.withHost host).vpCnt = s.vpCnt := rfl
@[simp] theorem withHost_ocCnt : (s.withHost host).ocCnt = s.ocCnt := rfl
@[simp] theorem withHost_scopeOpen : (s.withHost host).scopeOpen = s.scopeOpen := rfl
@[simp] theorem withHost_speedupReq : (s.withHost host).speedupReq = s.speedupReq := rfl
@[simp] theorem withHost_micro : (s.withHost host).micro = s.micro := rfl
@[simp] theorem withHost_op : (s.withHost host).op = s.op := rfl
@[simp] theorem withHost_cmd : (s.withHost host).cmd = s.cmd := rfl
@[simp] theorem withHost_answers : (s.withHost host).answers = s.answers := rfl

/-- A read of a classification register, where what follows it does not look at the port. -/
theorem readClass_withHost {α : Type} {r : Option α} {use use' : α → Out} (h : ∀ x, use' x = withHostNext host (use x)) :
    readClass r use' = withHostNext host (readClass r use) := by
  cases r
  case none => rfl
  case some x => exact h x

/-! ## The stages of INIT -/

theorem initRaise_withHost (e : Err) : initRaise e (s.withHost host) = (initRaise e s).withHost host := by
  unfold initRaise
  rw [withHost_scopeOpen]
  split <;> rfl

theorem endStages_withHost : endStages (s.withHost host) = (endStages s).withHost host := by
  unfold endStages
  rw [withHost_params]
  split <;> rfl

theorem runCmd_withHost (c : InitCmd) : runCmd c (s.withHost host) = withHostNext host (runCmd c s) := by
  have hoperands : initOperands c (s.withHost host) = initOperands c s := by cases c <;> rfl
  unfold runCmd
  rw [hoperands]
  exact readClass_withHost fun _ => rfl

theorem startCmd_withHost (c : InitCmd) : startCmd c (s.withHost host) = withHostNext host (startCmd c s) := by
  unfold startCmd
  rw [withHost_params]
  split
  · exact runCmd_withHost (s := { s with op := .init c }) c
  · rfl

theorem versionAttempt_withHost : versionAttempt (s.withHost host) = withHostNext host (versionAttempt s) := by
  unfold versionAttempt
  rw [withHost_vpCnt, withHost_params]
  split
  · exact congrArg _ (initRaise_withHost _)
  · exact startCmd_withHost (s := { s with vpCnt := s.vpCnt + 1 }) _

theorem opCondIteration_withHost : opCondIteration (s.withHost host) = withHostNext host (opCondIteration s) := by
  unfold opCondIteration
  rw [withHost_ocCnt, withHost_params]
  split
  · exact congrArg _ (initRaise_withHost _)
  · exact startCmd_withHost (s := { s with ocCnt := s.ocCnt + 1 }) _

theorem enterCrcEnable_withHost (v : CardVersion) :
    enterCrcEnable v (s.withHost host) = withHostNext host (enterCrcEnable v s) :=
  startCmd_withHost (s := { s with version := some v, state := .crcEnable }) _

theorem enterCapacityProbe_withHost : enterCapacityProbe (s.withHost host) = withHostNext host (enterCapacityProbe s) :=
  readClass_withHost fun v => by
    cases v
    case v1 => exact congrArg _ (endStages_withHost (s := { s with state := .capacityProbe, capacity := some .standard }))
    case v2 => exact startCmd_withHost (s := { s with state := .capacityProbe }) _

theorem judgeEcho_withHost : judgeEcho (s.withHost host) = withHostNext host (judgeEcho s) := by
  unfold judgeEcho
  rw [withHost_params, withHost_extra]
  split
  · exact enterCrcEnable_withHost (s := { s with errCode := none }) _
  · exact versionAttempt_withHost

theorem judgeIdle_withHost : judgeIdle (s.withHost host) = withHostNext host (judgeIdle s) := by
  unfold judgeIdle
  rw [withHost_status]
  split
  · rfl
  · exact enterCapacityProbe_withHost

theorem stageOk_withHost (c : InitCmd) : stageOk c (s.withHost host) = withHostNext host (stageOk c s) := by
  cases c
  case goIdle => exact versionAttempt_withHost (s := { s with state := .versionProbe, vpCnt := 0 })
  case sendIfCond => exact judgeEcho_withHost
  case crcOnOff => exact opCondIteration_withHost (s := { s with state := .opCondWait, ocCnt := 0 })
  case appCmd => exact startCmd_withHost _
  case sdSendOpCond => exact judgeIdle_withHost
  case readOcr =>
    exact congrArg _ (endStages_withHost (s := { s with capacity := some (capacityFromOcr s.extra), errCode := none }))

theorem stageErr_withHost (c : InitCmd) (e : Err) : stageErr c e (s.withHost host) = withHostNext host (stageErr c e s) := by
  unfold stageErr
  split
  · exact enterCrcEnable_withHost _
  · exact congrArg _ (initRaise_withHost e)

theorem finishInit_withHost : finishInit (s.withHost host) = withHostNext host (finishInit s) :=
  readClass_withHost fun c => by
    rw [withHost_speedupReq]
    split <;> rfl

/-! ## The parts of `wait_ready`, of EXEC_CMD and of a scope -/

theorem raise_withHost (e : Err) : raise e (s.withHost host) = withHostNext host (raise e s) := by
  unfold raise
  rw [withHost_op, withHost_params]
  split
  case h_5 =>
    split
    · exact stageErr_withHost _ e
    · rfl
  all_goals rfl

theorem nextElem_withHost (body : List BodyElem) (done : List BodyResult) :
    nextElem body done (s.withHost host) = (nextElem body done s).withHost host := by
  cases body with
  | nil => rfl
  | cons elem body => cases elem <;> rfl

theorem readyOk_withHost : readyOk (s.withHost host) = (readyOk s).withHost host := by
  unfold readyOk plainReadyOk
  dsimp only [withHost_cmd, withHost_op]
  split
  · split
    · exact nextElem_withHost (s := { s with errCode := none }) _ _
    · rfl
  · rfl

theorem cmdOk_withHost (r : CmdResult) : cmdOk r (s.withHost host) = withHostNext host (cmdOk r s) := by
  unfold cmdOk
  rw [withHost_op, withHost_params]
  split
  case h_4 => exact congrArg _ (nextElem_withHost _ _)
  case h_5 =>
    split
    · exact stageOk_withHost _
    · rfl
  all_goals rfl

theorem pollAttempt_withHost : pollAttempt (s.withHost host) = withHostNext host (pollAttempt s) := by
  unfold pollAttempt
  rw [withHost_respCnt, withHost_params]
  split
  · exact raise_withHost _
  · rfl

theorem readyByte_withHost (b : Byte) : readyByte b (s.withHost host) = withHostNext host (readyByte b s) := by
  unfold readyByte
  rw [withHost_readyCnt, withHost_params]
  split
  · exact congrArg _ readyOk_withHost
  · split
    · exact raise_withHost _
    · rfl

theorem pollByte_withHost (b : Byte) : pollByte b (s.withHost host) = withHostNext host (pollByte b s) := by
  unfold pollByte statusByte
  dsimp only [withHost_shape]
  split
  · exact pollAttempt_withHost
  · split <;> rfl

theorem extraByte_withHost (k : Fin 4) (b : Byte) : extraByte k b (s.withHost host) = (extraByte k b s).withHost host := by
  unfold extraByte
  dsimp only
  split <;> rfl

theorem respond_withHost (status : Byte) (echo : Option Quad) :
    respond status echo (s.withHost host) = withHostNext host (respond status echo s) := by
  unfold respond receive
  dsimp only
  split
  · exact pollAttempt_withHost
  · split
    · exact raise_withHost (s := { s with status := status, extra := _ }) _
    · exact cmdOk_withHost (s := { s with status := status, extra := _, errCode := none }) _

theorem csLowAnswered_withHost (fault : Bool) :
    csLowAnswered fault (s.withHost host) = withHostNext host (csLowAnswered fault s) := by
  unfold csLowAnswered
  dsimp only [withHost_op, withHost_params]
  split
  · split
    · split
      · exact congrArg _ (initRaise_withHost (s := { s with csLevel := csAfter .low fault }) _)
      · exact stageErr_withHost (s := { s with csLevel := csAfter .low fault }) _ _
    · rfl
  · split
    · exact congrArg _ (nextElem_withHost (s := { s with csLevel := csAfter .low fault, scopeOpen := true }) _ _)
    · split
      · exact startCmd_withHost (s := { s with csLevel := csAfter .low fault, scopeOpen := true, state := .idle }) _
      · exact runCmd_withHost (s := { s with csLevel := csAfter .low fault, scopeOpen := true }) _
    · rfl

theorem csHighAnswered_withHost (inFlight : Option Err) (fault : Bool) :
    csHighAnswered inFlight fault (s.withHost host) = withHostNext host (csHighAnswered inFlight fault s) := by
  unfold csHighAnswered
  dsimp only [withHost_op, withHost_params]
  split
  case h_2 =>
    split
    · rfl
    · exact stageOk_withHost (s := { s with csLevel := csAfter .high fault, scopeOpen := false }) _
  case h_3 =>
    split
    · rfl
    · exact stageErr_withHost (s := { s with csLevel := csAfter .high fault, scopeOpen := false }) _ _
  all_goals rfl

theorem powerUpCsAnswered_withHost (fault : Bool) :
    powerUpCsAnswered fault (s.withHost host) = (powerUpCsAnswered fault s).withHost host := by
  unfold powerUpCsAnswered
  dsimp only
  split
  · exact initRaise_withHost (s := { s with csLevel := csAfter .high fault }) _
  · rfl

theorem powerUpWritten_withHost (fault : Bool) :
    powerUpWritten fault (s.withHost host) = withHostNext host (powerUpWritten fault s) := by
  unfold powerUpWritten
  rw [withHost_params]
  split
  · exact congrArg _ (initRaise_withHost _)
  · split
    · rfl
    · exact startCmd_withHost (s := { s with state := .idle }) _

/-! ## The step -/

theorem pendingCall_withHost : pendingCall (s.withHost host) = pendingCall s := rfl

theorem resume_withHost (a : Answer) : resume a (s.withHost host) = withHostNext host (resume a s) := by
  unfold resume
  rw [pendingCall_withHost]
  split
  · rfl
  next call _ =>
    have hlog : logEvent (call.event a) (s.withHost host) = (logEvent (call.event a) s).withHost host := rfl
    simp only [hlog, withHost_micro]
    generalize logEvent (call.event a) s = u
    cases u.micro <;> dsimp only
    case readyXfer =>
      split
      · exact raise_withHost _
      · exact readyByte_withHost _
    case frameWrite =>
      split
      · exact raise_withHost _
      · exact pollAttempt_withHost (s := { u with respCnt := 0 })
    case pollXfer =>
      split
      · exact raise_withHost _
      · exact pollByte_withHost _
    case extraXfer =>
      split
      · exact raise_withHost _
      · exact congrArg _ (extraByte_withHost _ _)
    case csLow => exact csLowAnswered_withHost _
    case csHigh => exact csHighAnswered_withHost _ _
    case powerUpCsHigh => exact congrArg _ (powerUpCsAnswered_withHost _)
    case powerUpWrite => exact powerUpWritten_withHost _
    case opCondDelay => exact opCondIteration_withHost
    all_goals rfl

/-- With a call out, a step looks at the answers alone. -/
theorem step_call_withHost {call : Call} (hb : s.busy = true) (hc : pendingCall s = some call) :
    step (s.withHost host) = withHostNext host (step s) := by
  rw [step_of_pendingCall hb hc, step_of_pendingCall (s := s.withHost host) hb hc, withHost_answers]
  split
  · rfl
  · exact resume_withHost (s := { s with answers := _ }) _

/-- A busy step answers the same whatever the host offers. -/
theorem step_withHost (hb : s.busy = true) : step (s.withHost host) = withHostNext host (step s) := by
  have hb' : (s.withHost host).busy = true := hb
  cases hc : pendingCall s with
  | some call => exact step_call_withHost hb hc
  | none =>
    cases hm : s.micro
    case idle => simp [step, fetch, fetchBusy, hb, hm]
    case sendFrame =>
      cases hcmd : s.cmd with
      | none => simp [step, fetch, fetchBusy, fetchFrame, hb, hm, hcmd]
      | some c => rw [step_sendFrame hb hm hcmd, step_sendFrame hb' hm hcmd]; rfl
    case respond =>
      obtain ⟨echo, he⟩ := exec_responseOf s.shape s.status s.extra
      rw [step_respond_exec hb hm, step_respond_exec hb' hm, he]
      exact (he _).trans (respond_withHost _ echo)
    case finish =>
      rw [step_finish hb hm, step_finish hb' hm]
      exact finishInit_withHost
    all_goals simp [pendingCall, hm] at hc

/-- Settles O54: a busy step answers the same whatever is offered (`step_withHost`). -/
theorem requestsAreHeldWhileBusy : Obligations.RequestsAreHeldWhileBusy := by
  intro s offered hb
  refine (step_withHost hb).trans ?_
  cases step s <;> rfl

end Sys2Proof.Machine
